-- ==== Sys2Proof/Word.lean ====
section
/-! DEFINITION. The value types of the CHIP-8 CORE: bytes, 16-bit words and register numbers
(spec/10_state.md R20, R21; every value is unsigned, spec/00_scope.md R6). -/

namespace Sys2Proof

/-- An 8-bit value: a memory cell, a V register, a timer (R20). -/
abbrev Byte := BitVec 8

/-- A 16-bit value: an instruction word, I, PC, a stack entry (R20, R70). -/
abbrev Word := BitVec 16

/-- The number of a general register, 0 to 15 (R21). -/
abbrev Reg := Fin 16

/-- VF = V[15], the register that doubles as the flag (R22). -/
abbrev VF : Reg := 15

/-- V0 = V[0], read implicitly by BNNN (R21, R110). -/
abbrev V0 : Reg := 0

end Sys2Proof
end

