-- ==== Sys2Proof/Config.lean ====
section
/-! DEFINITION. What is fixed for the life of the hardware (spec/00_scope.md R5), and the values the spec
leaves open: constants without a body, so that no proof can see what they are. -/

namespace Sys2Proof

/-- `MEM_SIZE`: 4096 bytes (R5). -/
def Config.memSize : Nat := 4096

/-- `FONT_SIZE`: 80 bytes from address 0, 16 glyphs of 5 bytes (R5). -/
def Config.fontSize : Nat := 80

/-- The type of the parameter `FONT` (R5, R38): 80 bytes, glyph d being the five from 5·d. The spec leaves the values OPEN
(D11): `State.resetWith` takes them as an argument. -/
abbrev Config.Font := Vector Byte Config.fontSize

/-- `PROG_BASE`: 512, the load address and the reset value of PC (R5). -/
def Config.progBase : Nat := 512

/-- `ROM_MAX`: 3584 bytes, the capacity of `load` (R5, R201). -/
def Config.romMax : Nat := 3584

/-- The byte the surroundings present as `rnd` to the step that draws the n-th random byte.
A FREE VALUE (log 1): "any value 0..255, chosen by the surroundings, under no law the model may use" (R131). -/
opaque Config.freeRnd : Nat → Byte

/-- `STEPS_PER_FRAME`, an OPEN parameter (R5, R202): no rule depends on its value (log 21). -/
opaque Config.stepsPerFrame : Nat

/-- The two named values of `UNKNOWN_PC_POLICY` (R5, R111): what an unrecognized word does to PC. -/
inductive Config.UnknownPcPolicy where
  /-- PC advances by 2: the policy the spec picks (D4). -/
  | advance2
  /-- PC is unchanged: the alternative the spec keeps by name. -/
  | hold
  deriving DecidableEq, Repr

end Sys2Proof
end

