-- ==== Sys2Proof/Machine/Framebuffer.lean ====
section
/-! DEFINITION. The framebuffer `FB` (spec/10_state.md R28): 64 by 32 one-bit cells, row-major, a separate array
(spec/20_memory.md R62), and the two ways it changes: clearing, and the toggling of one cell. -/

namespace Sys2Proof.Machine

/-- 32 rows of 64 one-bit cells; column x of row y is bit x of entry y and is the spec's cell `FB[y*64 + x]` (log 17). -/
abbrev Framebuffer := Vector (BitVec 64) 32

/-- The coordinates of a cell: column 0..63 and row 0..31 (R28). -/
structure Pixel where
  col : Fin 64
  row : Fin 32
  deriving DecidableEq, Repr

/-- The row-major index of R28: cell `y*64 + x`. -/
def Pixel.cell (p : Pixel) : Nat := p.row.val * 64 + p.col.val

/-- The coordinates of the cell with index `c` (R28). -/
def Pixel.ofCell (c : Fin 2048) : Pixel :=
  ⟨⟨c.val % 64, Nat.mod_lt _ (by omega)⟩, ⟨c.val / 64, by omega⟩⟩

/-- Whether the cell is 1 (R28). -/
def Framebuffer.lit (fb : Framebuffer) (p : Pixel) : Bool := fb[p.row].getLsbD p.col.val

/-- `FB[cell] <- FB[cell] ^ 1` (R151). -/
def Framebuffer.toggle (fb : Framebuffer) (p : Pixel) : Framebuffer :=
  fb.set p.row (fb[p.row] ^^^ BitVec.twoPow 64 p.col.val)

/-- All 2048 cells 0 (R37, R150). -/
def Framebuffer.clear : Framebuffer := Vector.replicate 32 0

end Sys2Proof.Machine
end

