-- ==== Sys2Proof/Machine/Font.lean ====
section
/-! DEFINITION. The default of the parameter `FONT` (spec/10_state.md R38), and what memory holds right after reset (R37). -/

namespace Sys2Proof.Machine

/-- Glyphs 0 to 7 of R38, five bytes each. -/
def fontLow : List Byte :=
  [0xF0, 0x90, 0x90, 0x90, 0xF0,  0x20, 0x60, 0x20, 0x20, 0x70,
   0xF0, 0x10, 0xF0, 0x80, 0xF0,  0xF0, 0x10, 0xF0, 0x10, 0xF0,
   0x90, 0x90, 0xF0, 0x10, 0x10,  0xF0, 0x80, 0xF0, 0x10, 0xF0,
   0xF0, 0x80, 0xF0, 0x90, 0xF0,  0xF0, 0x10, 0x20, 0x40, 0x40]

/-- Glyphs 8 to F of R38, five bytes each. -/
def fontHigh : List Byte :=
  [0xF0, 0x90, 0xF0, 0x90, 0xF0,  0xF0, 0x90, 0xF0, 0x10, 0xF0,
   0xF0, 0x90, 0xF0, 0x90, 0x90,  0xE0, 0x90, 0xE0, 0x90, 0xE0,
   0xF0, 0x80, 0x80, 0x80, 0xF0,  0xE0, 0x90, 0x90, 0x90, 0xE0,
   0xF0, 0x80, 0xF0, 0x80, 0xF0,  0xF0, 0x80, 0xF0, 0x80, 0x80]

/-- The default the spec gives for the parameter `FONT` (R5, R38, D11). PRESUMED: the byte values are from general
knowledge, not from the source (log 2). Only `State.reset` takes it; a claim that depends on the values names them as a
premise by starting from it. -/
def defaultFont : Config.Font := ⟨(fontLow ++ fontHigh).toArray, rfl⟩

/-- The contents of address `a` after reset: the font in 0..79, 0 elsewhere (R37). -/
def resetByte (font : Config.Font) (a : Nat) : Byte := if h : a < Config.fontSize then font[a] else 0

end Sys2Proof.Machine
end

