-- ==== Sys2Proof/Machine/Memory.lean ====
section
/-! DEFINITION. The memory `MEM` (spec/20_memory.md): a list of address and byte pairs in one canonical form, and the
operations over it. An address that is not listed reads as its reset contents (spec/10_state.md R37), in which `FONT` is a
parameter (R38), the argument `font` throughout. -/

namespace Sys2Proof.Machine

/-- The cells that differ from their reset contents, addresses strictly rising (see `Memory.wf`). -/
abbrev Memory := List (Nat × Byte)

variable (font : Config.Font)

/-- `MemRead(a, 1)` (R10): the listed byte, or the reset contents. -/
def Memory.read : Memory → Nat → Byte
  | [], a => resetByte font a
  | (b, v) :: m, a => if a = b then v else Memory.read m a

/-- `MemWrite(a, 1, v)` (R10): a reset value is written by taking the entry out, so that the form stays canonical. -/
def Memory.write : Memory → Nat → Byte → Memory
  | [], a, v => if v = resetByte font a then [] else [(a, v)]
  | (b, u) :: m, a, v =>
    if a < b then (if v = resetByte font a then (b, u) :: m else (a, v) :: (b, u) :: m)
    else if a = b then (if v = resetByte font a then m else (a, v) :: m)
    else (b, u) :: Memory.write m a v

/-- Bytes stored at ascending addresses from `a` (R53: "lowest address first"). -/
def Memory.writeList : Memory → Nat → List Byte → Memory
  | m, _, [] => m
  | m, a, v :: vs => Memory.writeList (Memory.write font m a v) (a + 1) vs

/-- `n` bytes read at ascending addresses from `a` (R53). -/
def Memory.readList (m : Memory) : Nat → Nat → List Byte
  | _, 0 => []
  | a, n + 1 => Memory.read font m a :: Memory.readList m (a + 1) n

/-- The canonical form from address `lo` up: addresses strictly rising, inside the address space 0..4095 (R50), and
no entry equal to what an unlisted address reads as. -/
def Memory.wfFrom : Nat → Memory → Bool
  | _, [] => true
  | lo, (a, v) :: m =>
    decide (lo ≤ a) && decide (a < Config.memSize) && decide (v ≠ resetByte font a) && Memory.wfFrom (a + 1) m

/-- The canonical form. -/
def Memory.wf (m : Memory) : Bool := Memory.wfFrom font 0 m

end Sys2Proof.Machine
end

