-- ==== Sys2Proof/Machine/State.lean ====
section
/-! DEFINITION. The machine state (spec/10_state.md R20), the fault causes (spec/60_exceptions.md R181), the refusals,
and the state after reset (R37). -/

namespace Sys2Proof.Machine

/-- The fault causes of R181 with their recorded information. They are what the register `FAULT` holds (R35). Raising
one is a NEXT state (R182, `raise`): no step of this model ends in the host's outcome `fault`. All five are safe: the
spec faults where the original software's behaviour is undefined (R180, D2). -/
inductive Fault where
  /-- `PcOutOfBounds(PC)`, code 1: raised by a step that begins with PC > 4094 (R100). Safe. -/
  | pcOutOfBounds (pc : Word)
  /-- `StackOverflow`, code 2: raised by 2NNN with SP = 16 (R105). Safe. -/
  | stackOverflow
  /-- `StackUnderflow`, code 3: raised by 00EE with SP = 0 (R103). Safe. -/
  | stackUnderflow
  /-- `MemOutOfBounds(a)`, code 4: raised by DXYN, FX33, FX55, FX65 with the lowest address of the range above 4095
  (R55). Safe. -/
  | memOutOfBounds (addr : Nat)
  /-- `KeyIndexOutOfBounds(VX)`, code 5: raised by EX9E and EXA1 with VX > 15 (R165). Safe. -/
  | keyIndexOutOfBounds (key : Byte)
  deriving DecidableEq, Repr

/-- What the model gives no meaning to. -/
inductive Refusal where
  /-- An instruction without a meaning, by its mnemonic; raised by `exec` alone. Safe. No arm of this model raises it. -/
  | notModelled (mnemonic : String)
  /-- A `load` at another time than between `reset` and the first step, or a second one: the spec leaves it unsaid
  (R201, D21, V9). Raised by the boundary driver `Session.apply`, never by a step. Safe. -/
  | loadOutsideBoot
  deriving DecidableEq, Repr

/-- The complete state of the block (R20), and the model's own counter `draws` and parameter `font`. -/
structure State where
  /-- `V`, the general registers (R21, R22). -/
  v : Vector Byte 16
  /-- `I`, the index register (R23). -/
  i : Word
  /-- `PC`, the program counter (R24). -/
  pc : Word
  /-- `STACK`, the return addresses (R25). -/
  stack : Vector Word 16
  /-- `SP`, values 0 to 16 (R26). -/
  sp : Fin 17
  /-- `MEM`, 4096 bytes (R27). -/
  mem : Memory
  /-- `FB`, the framebuffer (R28). -/
  fb : Framebuffer
  /-- `DRAW`, the redraw flag (R29). -/
  draw : Bool
  /-- `DT`, the delay timer (R30). -/
  dt : Byte
  /-- `ST`, the sound timer (R31). -/
  st : Byte
  /-- `KEYS`, the current keypad snapshot, bit k for key k (R33). -/
  keys : BitVec 16
  /-- `PREV`, the preceding keypad snapshot, bit k for key k (R34). -/
  prev : BitVec 16
  /-- `BEEP`, the beep level (R32). -/
  beep : Bool
  /-- `FAULT`, `none` or one cause (R35). -/
  fault : Option Fault
  /-- The MODEL'S OWN field (log 1): how many `rnd` bytes CXNN has consumed; it indexes `Config.freeRnd`. -/
  draws : Nat
  /-- The MODEL'S OWN field (log 2): the parameter `FONT` of this machine (R5, R38), fixed for its life (R36 (f)): nothing
  writes it, reset included. It stands here so that every statement about a state is about every font. -/
  font : Config.Font
  deriving DecidableEq, Repr

/-- The state after reset (R37, R200) of a machine whose parameter `FONT` is `font` (R5, R38). `draws` is the model's own
(DESIGN CHOICE, log 1), memory lists nothing (log 22). -/
def State.resetWith (font : Config.Font) : State where
  v := Vector.replicate 16 0
  i := 0
  pc := BitVec.ofNat 16 Config.progBase
  stack := Vector.replicate 16 0
  sp := 0
  mem := []
  fb := Framebuffer.clear
  draw := false
  dt := 0
  st := 0
  keys := 0
  prev := 0
  beep := false
  fault := none
  draws := 0
  font := font

/-- The state after reset with the default font (R37, R38; log 2). -/
def State.reset : State := State.resetWith defaultFont

end Sys2Proof.Machine
end

