-- ==== Sys2Proof/Machine/Ops.lean ====
section
/-! DEFINITION. The named operations over registers, memory and the stack, the advance of PC, and raising a fault
(spec/00_scope.md R9 to R11, spec/60_exceptions.md R182). -/

namespace Sys2Proof.Machine

/-- What one step or one meaning answers. -/
abbrev Result := Host.Outcome State Fault Refusal

/-! ## Registers -/

/-- `V[r]` (R9, R21). -/
def State.reg (s : State) (r : Reg) : Byte := s.v[r]

/-- `V[r] <- b` (R9, R21); no register is hardwired. -/
def State.setReg (s : State) (r : Reg) (b : Byte) : State := { s with v := s.v.set r b }

/-- `I <- t` (R23). -/
def State.setI (s : State) (t : Word) : State := { s with i := t }

/-- `PC <- t` (R24). -/
def State.setPc (s : State) (t : Word) : State := { s with pc := t }

/-- `DT <- b` (R30). -/
def State.setDt (s : State) (b : Byte) : State := { s with dt := b }

/-- `ST <- b` (R31). -/
def State.setSt (s : State) (b : Byte) : State := { s with st := b }

/-! ## PC (R101) -/

/-- `PC <- PC + 2`, modulo 65536 (R24, R101). -/
def State.advance (s : State) : State := s.setPc (s.pc + 2)

/-- `PC <- PC + 4` if the condition holds, else `PC <- PC + 2` (R101). -/
def State.skipIf (s : State) (taken : Bool) : State := s.setPc (if taken then s.pc + 4 else s.pc + 2)

/-! ## Memory (R10, R55) -/

/-- `MEM[a]` (R10). -/
def State.readByte (s : State) (a : Nat) : Byte := s.mem.read s.font a

/-- `MEM[a], MEM[a+1], ...`, `n` bytes (R53). -/
def State.readBytes (s : State) (a n : Nat) : List Byte := s.mem.readList s.font a n

/-- Bytes stored from `a` upwards (R53); no write protection (R56). -/
def State.storeBytes (s : State) (a : Nat) (bs : List Byte) : State := { s with mem := s.mem.writeList s.font a bs }

/-! ## Raising a fault (R11, R182) -/

/-- The state a raised fault leaves: `FAULT <- F(info)` and nothing else (R182). -/
def State.withFault (s : State) (f : Fault) : State := { s with fault := some f }

/-- `raise F(info)` (R11): the step ends at once. The entry is a next state: "a `step` that raises cause F changes
exactly one thing" (R182). There is no handler and no return (R184). -/
def raise (f : Fault) (s : State) : Result := .next (s.withFault f)

/-- The `len` bytes from I lie inside memory, or there are none (R55). Addresses are naturals: `I + k` does not wrap. -/
abbrev State.InRange (s : State) (len : Nat) : Prop := len = 0 ∨ s.i.toNat + len ≤ Config.memSize

/-- The check of R55 on the `len` bytes from I: the whole range before anything is touched, an empty range never
faulting, the lowest offending address recorded. -/
def withRange (s : State) (len : Nat) (go : Result) : Result :=
  if s.InRange len then go else raise (.memOutOfBounds (max s.i.toNat Config.memSize)) s

/-! ## The call stack (R25, R26) -/

/-- `STACK[SP] <- t; SP <- SP + 1`, or `raise StackOverflow` when SP = 16 (R105). -/
def withPush (s : State) (t : Word) (go : State → Result) : Result :=
  if h : s.sp.val < 16 then
    go { s with stack := s.stack.set s.sp.val t h, sp := ⟨s.sp.val + 1, by omega⟩ }
  else raise .stackOverflow s

/-- `SP <- SP - 1` and the entry `STACK[SP]` handed on, or `raise StackUnderflow` when SP = 0 (R103). The entry is not
cleared (R25). -/
def withPop (s : State) (go : State → Word → Result) : Result :=
  if h : 0 < s.sp.val then
    go { s with sp := ⟨s.sp.val - 1, by omega⟩ } (s.stack[s.sp.val - 1]'(by omega))
  else raise .stackUnderflow s

/-! ## Keypad (R33, R34, R64) -/

/-- `KEYS[k] = 1` (R33). -/
def State.keyDown (s : State) (k : Nat) : Bool := s.keys.getLsbD k

/-- `PREV[k] = 1` (R34). -/
def State.wasDown (s : State) (k : Nat) : Bool := s.prev.getLsbD k

/-- The key number in VX, or `raise KeyIndexOutOfBounds(VX)` above 15 (R165). -/
def withKey (s : State) (x : Reg) (go : Nat → Result) : Result :=
  if 15 < (s.reg x).toNat then raise (.keyIndexOutOfBounds (s.reg x)) s else go (s.reg x).toNat

/-- The lowest key released in the current frame: `KEYS[k] = 0` and `PREV[k] = 1`, scanned upwards (R163). -/
def State.releaseEdge (s : State) : Option Nat :=
  (List.range 16).find? (fun k => !s.keyDown k && s.wasDown k)

/-! ## Display (R28, R29) -/

/-- The framebuffer written and `DRAW <- 1` (R150, R151). -/
def State.setDisplay (s : State) (fb : Framebuffer) : State := { s with fb := fb, draw := true }

/-! ## The random input (R36, R131) -/

/-- One `rnd` byte of the surroundings is used up: the model's own counter (log 1). -/
def State.countDraw (s : State) : State := { s with draws := s.draws + 1 }

end Sys2Proof.Machine
end

