-- ==== Sys2Proof/Machine/Operands.lean ====
section
/-! DEFINITION. The operand forms (spec/30_encoding.md R73, spec/42_index_memory.md R146) and the sprite pipeline's
coordinates (spec/43_display.md R151, R152). -/

namespace Sys2Proof.Machine

/-- `zext_16(NNN)` (R73): immediates are unsigned, never sign-extended or scaled. -/
def zextAddr (nnn : BitVec 12) : Word := nnn.setWidth 16

/-- `zext_16(b)` of a register's byte (R7). -/
def zextByte (b : Byte) : Word := b.setWidth 16

/-- The address of the font glyph of `b`: `(b & 0x0F) * 5` (R142). -/
def glyphAddr (b : Byte) : Word := zextByte (b &&& 0x0F#8) * 5#16

/-- The decimal digits of `b`: hundreds, tens, ones (R143). -/
def decimalDigits (b : Byte) : List Byte := [b / 100#8, (b / 10#8) % 10#8, b % 10#8]

/-- `V[0], ..., V[X]`, the registers FX55 moves (R144). -/
def State.regsUpTo (s : State) (x : Reg) : List Byte := s.v.toList.take (x.val + 1)

/-- `V[k] <- MEM[I + k]` for k in 0..X, the registers above X unchanged (R145). -/
def State.loadRegsUpTo (s : State) (x : Reg) : State :=
  { s with v := Vector.ofFn fun k => if k ≤ x then s.readByte (s.i.toNat + k.val) else s.reg k }

/-- I moved past a block of `X + 1` bytes: `I <- I + X + 1` (R144, R145, R146). -/
def State.bumpI (s : State) (x : Reg) : State := s.setI (s.i + BitVec.ofNat 16 (x.val + 1))

/-- Column `c` of a sprite row is bit `7 - c`: the most significant bit is the leftmost pixel (R152, log 7). -/
def spriteBit (row : Byte) (c : Nat) : Bool := row.getLsbD (7 - c)

/-- The mode of DXYN, decided once from the origin: clipping exactly when the origin is on-screen (R151). -/
def clipping (ox oy : Byte) : Bool := decide (ox.toNat < 64) && decide (oy.toNat < 32)

/-- Where a set sprite bit at the naturals (tx, ty) goes: in clipping mode nowhere when off-screen, in wrapping mode
to the coordinates modulo 64 and 32 (R151). -/
def drawTarget (clip : Bool) (tx ty : Nat) : Option Pixel :=
  if clip then
    if h : tx < 64 ∧ ty < 32 then some ⟨⟨tx, h.1⟩, ⟨ty, h.2⟩⟩ else none
  else some ⟨⟨tx % 64, Nat.mod_lt _ (by omega)⟩, ⟨ty % 32, Nat.mod_lt _ (by omega)⟩⟩

/-- One column of the draw loop of R151: a clear bit "does nothing at all", a set bit toggles its target and records a
collision when the target was 1. The pair is the framebuffer and whether a collision has been seen. -/
def drawColumn (clip : Bool) (ox ty : Nat) (row : Byte) (acc : Framebuffer × Bool) (c : Nat) : Framebuffer × Bool :=
  if spriteBit row c then
    match drawTarget clip (ox + c) ty with
    | some p => (acc.1.toggle p, acc.2 || acc.1.lit p)
    | none => acc
  else acc

/-- One row of the draw loop: columns 0..7 (R151). -/
def drawRow (clip : Bool) (ox ty : Nat) (row : Byte) (acc : Framebuffer × Bool) : Framebuffer × Bool :=
  (List.range 8).foldl (drawColumn clip ox ty row) acc

/-- The draw loop: rows downwards from `ty` (R151). -/
def drawRows (clip : Bool) (ox : Nat) : Nat → List Byte → Framebuffer × Bool → Framebuffer × Bool
  | _, [], acc => acc
  | ty, row :: rows, acc => drawRows clip ox (ty + 1) rows (drawRow clip ox ty row acc)

/-- The sprite pipeline on a framebuffer: the new framebuffer, and whether some set bit met a pixel that was 1 (R151). -/
def drawSprite (fb : Framebuffer) (ox oy : Byte) (rows : List Byte) : Framebuffer × Bool :=
  drawRows (clipping ox oy) ox.toNat oy.toNat rows (fb, false)

end Sys2Proof.Machine
end

