-- ==== Sys2Proof/Machine/Flags.lean ====
section
/-! DEFINITION. The values the flag register VF takes (spec/10_state.md R22, spec/41_alu.md R133): each is 0 or 1. -/

namespace Sys2Proof.Machine

/-- A flag as the byte stored in VF. -/
def flagByte (b : Bool) : Byte := if b then 1#8 else 0#8

/-- 8XY4: "1 if sum > 255 else 0" (R126). -/
def carryFlag (a b : Byte) : Byte := flagByte (decide (255 < a.toNat + b.toNat))

/-- 8XY5 and 8XY7: "0 if borrow else 1", the borrow of `a - b` being `b > a` (R127, R129). -/
def notBorrowFlag (a b : Byte) : Byte := flagByte (!decide (a.toNat < b.toNat))

/-- 8XY6: bit 0 of the value shifted (R128). -/
def lowBitFlag (b : Byte) : Byte := b &&& 1#8

/-- 8XYE: bit 7 of the value shifted, stored as 0 or 1 (R130). -/
def highBitFlag (b : Byte) : Byte := (b >>> 7) &&& 1#8

/-- DXYN: 1 exactly when a set sprite bit met a pixel that was 1 (R151). -/
def collisionFlag (seen : Bool) : Byte := flagByte seen

end Sys2Proof.Machine
end

