-- ==== Sys2Proof/Machine/Alu.lean ====
section
/-! DEFINITION. Register loads, arithmetic, logic, shifts and RND (spec/41_alu.md). Operands are read from the state
before the step, then the writes happen in the order of the rule (R132). -/

namespace Sys2Proof.Machine

/-- The result into VX, then the flag into VF, then PC + 2: the order of 8XY1 to 8XY5 and 8XY7 (R132, D8; log 5). -/
def State.putWithFlag (s : State) (x : Reg) (result flag : Byte) : State :=
  ((s.setReg x result).setReg VF flag).advance

/-- LD Vx, nn (R120). -/
def execLdImm (x : Reg) (nn : Byte) (s : State) : Result := .next (s.setReg x nn).advance

/-- ADD Vx, nn (R121): modulo 256, no flag. -/
def execAddImm (x : Reg) (nn : Byte) (s : State) : Result := .next (s.setReg x (s.reg x + nn)).advance

/-- LD Vx, Vy (R122). -/
def execLdReg (x y : Reg) (s : State) : Result := .next (s.setReg x (s.reg y)).advance

/-- OR Vx, Vy (R123): VF forced to 0. -/
def execOr (x y : Reg) (s : State) : Result := .next (s.putWithFlag x (s.reg x ||| s.reg y) 0)

/-- AND Vx, Vy (R124): VF forced to 0. -/
def execAnd (x y : Reg) (s : State) : Result := .next (s.putWithFlag x (s.reg x &&& s.reg y) 0)

/-- XOR Vx, Vy (R125): VF forced to 0. -/
def execXor (x y : Reg) (s : State) : Result := .next (s.putWithFlag x (s.reg x ^^^ s.reg y) 0)

/-- ADD Vx, Vy (R126): VF is the carry. -/
def execAddReg (x y : Reg) (s : State) : Result :=
  .next (s.putWithFlag x (s.reg x + s.reg y) (carryFlag (s.reg x) (s.reg y)))

/-- SUB Vx, Vy (R127): VX - VY, VF is not-borrow. -/
def execSub (x y : Reg) (s : State) : Result :=
  .next (s.putWithFlag x (s.reg x - s.reg y) (notBorrowFlag (s.reg x) (s.reg y)))

/-- SUBN Vx, Vy (R129): VY - VX, VF is not-borrow. -/
def execSubn (x y : Reg) (s : State) : Result :=
  .next (s.putWithFlag x (s.reg y - s.reg x) (notBorrowFlag (s.reg y) (s.reg x)))

/-- The three sequential writes of 8XY6 and 8XYE (R128, R130): VX <- VY, then VF <- a flag of VX, then VX <- VX shifted,
each read seeing the writes before it. -/
def State.shiftFrom (s : State) (x y : Reg) (flag shift : Byte → Byte) : State :=
  let copied := s.setReg x (s.reg y)
  let flagged := copied.setReg VF (flag (copied.reg x))
  flagged.setReg x (shift (flagged.reg x))

/-- SHR Vx, Vy (R128): the value shifted is VY. -/
def execShr (x y : Reg) (s : State) : Result := .next (s.shiftFrom x y lowBitFlag (fun b => b >>> 1)).advance

/-- SHL Vx, Vy (R130): the value shifted is VY, modulo 256. -/
def execShl (x y : Reg) (s : State) : Result := .next (s.shiftFrom x y highBitFlag (fun b => b <<< 1)).advance

/-- RND Vx, nn (R131) with the step's input `rnd`: VX <- rnd & NN. -/
def rndInto (rnd : Byte) (x : Reg) (nn : Byte) (s : State) : State := (s.setReg x (rnd &&& nn)).advance.countDraw

/-- RND Vx, nn (R131), `rnd` being the free value of this draw (log 1). -/
def execRnd (x : Reg) (nn : Byte) (s : State) : Result := .next (rndInto (Config.freeRnd s.draws) x nn s)

end Sys2Proof.Machine
end

