-- ==== Sys2Proof/Machine/ControlFlow.lean ====
section
/-! DEFINITION. SYS, RET, JP, CALL, the register skips, JP V0 and unrecognized words (spec/40_control_flow.md). -/

namespace Sys2Proof.Machine

/-- SYS nnn (R102): a no-operation, PC advances by 2; the operand is ignored. The diagnostic is `stepDiag`. -/
def execSys (_nnn : BitVec 12) (s : State) : Result := .next s.advance

/-- RET (R103): the popped address plus 2. -/
def execRet (s : State) : Result := withPop s fun t a => .next (t.setPc (a + 2))

/-- JP nnn (R104). -/
def execJp (nnn : BitVec 12) (s : State) : Result := .next (s.setPc (zextAddr nnn))

/-- CALL nnn (R105): the unadvanced PC is pushed. -/
def execCall (nnn : BitVec 12) (s : State) : Result := withPush s s.pc fun t => .next (t.setPc (zextAddr nnn))

/-- JP V0, nnn (R110): the sum is not masked to 12 bits. -/
def execJpV0 (nnn : BitVec 12) (s : State) : Result := .next (s.setPc (zextAddr nnn + zextByte (s.reg V0)))

/-- SE Vx, nn (R106). -/
def execSeImm (x : Reg) (nn : Byte) (s : State) : Result := .next (s.skipIf (s.reg x == nn))

/-- SNE Vx, nn (R107). -/
def execSneImm (x : Reg) (nn : Byte) (s : State) : Result := .next (s.skipIf (s.reg x != nn))

/-- SE Vx, Vy (R108). -/
def execSeReg (x y : Reg) (s : State) : Result := .next (s.skipIf (s.reg x == s.reg y))

/-- SNE Vx, Vy (R109). -/
def execSneReg (x y : Reg) (s : State) : Result := .next (s.skipIf (s.reg x != s.reg y))

/-- `UNKNOWN_PC_POLICY = advance2`, the value the spec picks (R5, R111, D4; log 3). -/
def unknownPcPolicy : Config.UnknownPcPolicy := .advance2

/-- An unrecognized word under either policy (R111): PC advances by 2 or is unchanged, nothing else changes. -/
def unrecognizedUnder (policy : Config.UnknownPcPolicy) (s : State) : Result :=
  match policy with
  | .advance2 => .next s.advance
  | .hold => .next s

/-- UNRECOGNIZED (R111): "never fatal ... execution continues". The diagnostic is `stepDiag`. -/
def execUnrecognized (_w : Word) (s : State) : Result := unrecognizedUnder unknownPcPolicy s

end Sys2Proof.Machine
end

