-- ==== Sys2Proof/Machine/Display.lean ====
section
/-! DEFINITION. CLS and DRW (spec/43_display.md). -/

namespace Sys2Proof.Machine

/-- CLS (R150): all cells 0, DRAW set. -/
def execCls (s : State) : Result := .next (s.setDisplay Framebuffer.clear).advance

/-- DRW Vx, Vy, n (R151): coordinates read and the whole range I..I+N-1 checked before VF is written (D9, D22; logs 6, 11);
VF is the collision flag, DRAW is set, I and memory are unchanged. -/
def execDrw (x y : Reg) (n : BitVec 4) (s : State) : Result :=
  withRange s n.toNat
    (let out := drawSprite s.fb (s.reg x) (s.reg y) (s.readBytes s.i.toNat n.toNat)
     .next ((s.setDisplay out.1).setReg VF (collisionFlag out.2)).advance)

end Sys2Proof.Machine
end

