-- ==== Sys2Proof/Machine/IndexMemory.lean ====
section
/-! DEFINITION. The index register, stores and loads (spec/42_index_memory.md). -/

namespace Sys2Proof.Machine

/-- LD I, nnn (R140). -/
def execLdI (nnn : BitVec 12) (s : State) : Result := .next (s.setI (zextAddr nnn)).advance

/-- ADD I, Vx (R141): modulo 65536, not masked to 12 bits, no flag, no fault. -/
def execAddI (x : Reg) (s : State) : Result := .next (s.setI (s.i + zextByte (s.reg x))).advance

/-- LD F, Vx (R142). -/
def execLdF (x : Reg) (s : State) : Result := .next (s.setI (glyphAddr (s.reg x))).advance

/-- LD B, Vx (R143): three decimal digits from I upwards, I unchanged. -/
def execLdB (x : Reg) (s : State) : Result :=
  withRange s 3 (.next (s.storeBytes s.i.toNat (decimalDigits (s.reg x))).advance)

/-- LD [I], Vx (R144): V0..VX to memory, I moved past the block. -/
def execStoreRegs (x : Reg) (s : State) : Result :=
  withRange s (x.val + 1) (.next ((s.storeBytes s.i.toNat (s.regsUpTo x)).bumpI x).advance)

/-- LD Vx, [I] (R145): memory to V0..VX, I moved past the block. -/
def execLoadRegs (x : Reg) (s : State) : Result :=
  withRange s (x.val + 1) (.next ((s.loadRegsUpTo x).bumpI x).advance)

end Sys2Proof.Machine
end

