-- ==== Sys2Proof/Machine/Keypad.lean ====
section
/-! DEFINITION. SKP, SKNP and LD Vx, K (spec/44_keypad.md). -/

namespace Sys2Proof.Machine

/-- SKP Vx (R161): the level of key VX in the current snapshot. -/
def execSkp (x : Reg) (s : State) : Result := withKey s x fun k => .next (s.skipIf (s.keyDown k))

/-- SKNP Vx (R162). -/
def execSknp (x : Reg) (s : State) : Result := withKey s x fun k => .next (s.skipIf (!s.keyDown k))

/-- LD Vx, K (R163): the lowest released key into VX, or no change at all while no key shows the edge. -/
def execLdVxK (x : Reg) (s : State) : Result :=
  match s.releaseEdge with
  | some k => .next (s.setReg x (BitVec.ofNat 8 k)).advance
  | none => .next s

end Sys2Proof.Machine
end

