-- ==== Sys2Proof/Syntax.lean ====
section
/-! DEFINITION. The instructions: one constructor per row of spec/opcode_table.json, in the order of
spec/30_encoding.md R75, with the operand fields of R71 and R72. -/

namespace Sys2Proof

/-- One constructor per opcode pattern of R75. The pattern is the instruction's normative name (R79). -/
inductive Instr where
  /-- 00E0 CLS (R150). -/
  | cls
  /-- 00EE RET (R103). -/
  | ret
  /-- 0NNN SYS nnn (R102), but for the words 00E0 and 00EE. -/
  | sys (nnn : BitVec 12)
  /-- 1NNN JP nnn (R104). -/
  | jp (nnn : BitVec 12)
  /-- 2NNN CALL nnn (R105). -/
  | call (nnn : BitVec 12)
  /-- 3XNN SE Vx, nn (R106). -/
  | seImm (x : Reg) (nn : Byte)
  /-- 4XNN SNE Vx, nn (R107). -/
  | sneImm (x : Reg) (nn : Byte)
  /-- 5XY0 SE Vx, Vy (R108). -/
  | seReg (x y : Reg)
  /-- 6XNN LD Vx, nn (R120). -/
  | ldImm (x : Reg) (nn : Byte)
  /-- 7XNN ADD Vx, nn (R121). -/
  | addImm (x : Reg) (nn : Byte)
  /-- 8XY0 LD Vx, Vy (R122). -/
  | ldReg (x y : Reg)
  /-- 8XY1 OR Vx, Vy (R123). -/
  | orReg (x y : Reg)
  /-- 8XY2 AND Vx, Vy (R124). -/
  | andReg (x y : Reg)
  /-- 8XY3 XOR Vx, Vy (R125). -/
  | xorReg (x y : Reg)
  /-- 8XY4 ADD Vx, Vy (R126). -/
  | addReg (x y : Reg)
  /-- 8XY5 SUB Vx, Vy (R127). -/
  | subReg (x y : Reg)
  /-- 8XY6 SHR Vx, Vy (R128). -/
  | shr (x y : Reg)
  /-- 8XY7 SUBN Vx, Vy (R129). -/
  | subn (x y : Reg)
  /-- 8XYE SHL Vx, Vy (R130). -/
  | shl (x y : Reg)
  /-- 9XY0 SNE Vx, Vy (R109). -/
  | sneReg (x y : Reg)
  /-- ANNN LD I, nnn (R140). -/
  | ldI (nnn : BitVec 12)
  /-- BNNN JP V0, nnn (R110). -/
  | jpV0 (nnn : BitVec 12)
  /-- CXNN RND Vx, nn (R131). -/
  | rnd (x : Reg) (nn : Byte)
  /-- DXYN DRW Vx, Vy, n (R151). -/
  | drw (x y : Reg) (n : BitVec 4)
  /-- EX9E SKP Vx (R161). -/
  | skp (x : Reg)
  /-- EXA1 SKNP Vx (R162). -/
  | sknp (x : Reg)
  /-- FX07 LD Vx, DT (R170). -/
  | ldVxDt (x : Reg)
  /-- FX0A LD Vx, K (R163). -/
  | ldVxK (x : Reg)
  /-- FX15 LD DT, Vx (R171). -/
  | ldDtVx (x : Reg)
  /-- FX18 LD ST, Vx (R172). -/
  | ldStVx (x : Reg)
  /-- FX1E ADD I, Vx (R141). -/
  | addI (x : Reg)
  /-- FX29 LD F, Vx (R142). -/
  | ldF (x : Reg)
  /-- FX33 LD B, Vx (R143). -/
  | ldB (x : Reg)
  /-- FX55 LD [I], Vx (R144). -/
  | storeRegs (x : Reg)
  /-- FX65 LD Vx, [I] (R145). -/
  | loadRegs (x : Reg)
  /-- UNRECOGNIZED (R111): the default row of the table, with the word fetched. -/
  | unrecognized (w : Word)
  deriving DecidableEq, Repr

end Sys2Proof
end

