-- ==== Sys2Proof/Decode.lean ====
section
/-! DEFINITION. The decoder (spec/30_encoding.md R70 to R78): fields of a word, the decode procedure of R74 on every
16-bit word, the decoder on bytes, the opcode map of R75 as a table, and the encoder. -/

namespace Sys2Proof

/-! ## Fields (R71) -/

/-- `family = w[15:12]`. -/
def fieldFamily (w : Word) : BitVec 4 := w.extractLsb' 12 4

/-- `X = w[11:8]`, a register number. -/
def fieldX (w : Word) : Reg := (w.extractLsb' 8 4).toFin

/-- `Y = w[7:4]`, a register number. -/
def fieldY (w : Word) : Reg := (w.extractLsb' 4 4).toFin

/-- `N = w[3:0]`. -/
def fieldN (w : Word) : BitVec 4 := w.extractLsb' 0 4

/-- `NN = w[7:0]`. -/
def fieldNN (w : Word) : Byte := w.extractLsb' 0 8

/-- `NNN = w[11:0]`. -/
def fieldNNN (w : Word) : BitVec 12 := w.extractLsb' 0 12

/-! ## The decode procedure (R74) -/

/-- Family 0: CLS and RET match all 16 bits, every other word is SYS. -/
def decodeSystem (w : Word) : Instr :=
  if w = 0x00E0#16 then .cls
  else if w = 0x00EE#16 then .ret
  else .sys (fieldNNN w)

/-- Family 8: the sub-opcode is N. -/
def decodeArith (w : Word) : Instr :=
  match (fieldN w).toNat with
  | 0x0 => .ldReg (fieldX w) (fieldY w)
  | 0x1 => .orReg (fieldX w) (fieldY w)
  | 0x2 => .andReg (fieldX w) (fieldY w)
  | 0x3 => .xorReg (fieldX w) (fieldY w)
  | 0x4 => .addReg (fieldX w) (fieldY w)
  | 0x5 => .subReg (fieldX w) (fieldY w)
  | 0x6 => .shr (fieldX w) (fieldY w)
  | 0x7 => .subn (fieldX w) (fieldY w)
  | 0xE => .shl (fieldX w) (fieldY w)
  | _ => .unrecognized w

/-- Family E: the sub-opcode is NN. -/
def decodeKey (w : Word) : Instr :=
  match (fieldNN w).toNat with
  | 0x9E => .skp (fieldX w)
  | 0xA1 => .sknp (fieldX w)
  | _ => .unrecognized w

/-- Family F: the sub-opcode is NN. -/
def decodeMisc (w : Word) : Instr :=
  match (fieldNN w).toNat with
  | 0x07 => .ldVxDt (fieldX w)
  | 0x0A => .ldVxK (fieldX w)
  | 0x15 => .ldDtVx (fieldX w)
  | 0x18 => .ldStVx (fieldX w)
  | 0x1E => .addI (fieldX w)
  | 0x29 => .ldF (fieldX w)
  | 0x33 => .ldB (fieldX w)
  | 0x55 => .storeRegs (fieldX w)
  | 0x65 => .loadRegs (fieldX w)
  | _ => .unrecognized w

/-- The decode procedure of R74: "total on all 65536 words". The last arm is family F. -/
def decode (w : Word) : Instr :=
  match (fieldFamily w).toNat with
  | 0x0 => decodeSystem w
  | 0x1 => .jp (fieldNNN w)
  | 0x2 => .call (fieldNNN w)
  | 0x3 => .seImm (fieldX w) (fieldNN w)
  | 0x4 => .sneImm (fieldX w) (fieldNN w)
  | 0x5 => if fieldN w = 0x0#4 then .seReg (fieldX w) (fieldY w) else .unrecognized w
  | 0x6 => .ldImm (fieldX w) (fieldNN w)
  | 0x7 => .addImm (fieldX w) (fieldNN w)
  | 0x8 => decodeArith w
  | 0x9 => if fieldN w = 0x0#4 then .sneReg (fieldX w) (fieldY w) else .unrecognized w
  | 0xA => .ldI (fieldNNN w)
  | 0xB => .jpV0 (fieldNNN w)
  | 0xC => .rnd (fieldX w) (fieldNN w)
  | 0xD => .drw (fieldX w) (fieldY w) (fieldN w)
  | 0xE => decodeKey w
  | _ => decodeMisc w

/-! ## Bytes (R52, R70) -/

/-- The word of two consecutive bytes: "big-endian: high byte at the lower address" (R52). -/
def wordOfBytes (hi lo : Byte) : Word := hi ++ lo

/-- The byte of a word at the lower address. -/
def highByte (w : Word) : Byte := w.extractLsb' 8 8

/-- The byte of a word at the higher address. -/
def lowByte (w : Word) : Byte := w.extractLsb' 0 8

/-- Why a byte sequence holds no instruction. No word is illegal (R76), so only the length can be wrong. -/
inductive DecodeError where
  /-- Fewer than the two bytes of an instruction (R70). -/
  | truncated
  deriving DecidableEq, Repr

/-- One instruction from the front of a byte sequence, with the rest (R70: every instruction is two bytes). -/
def decodeBytes : List Byte → Except DecodeError (Instr × List Byte)
  | hi :: lo :: rest => .ok (decode (wordOfBytes hi lo), rest)
  | _ => .error .truncated

/-- What the decoder reads from an instruction whose bits are `w`, numbered as spec/opcode_table.json numbers them
(bit 0 least significant), all bits from `nbits` up being 0, laid out as the hardware stores words (R52). -/
def decodeTableWord (nbits w : Nat) : Option Instr :=
  let word := BitVec.ofNat 16 (w % 2 ^ nbits)
  match decodeBytes [highByte word, lowByte word] with
  | .ok (i, _) => some i
  | .error _ => none

/-! ## The encoder (R72, R75) -/

/-- A register number as a nibble. -/
def regNibble (r : Reg) : BitVec 4 := BitVec.ofFin r

/-- Format ADDR: family, NNN. -/
def encodeAddr (family : BitVec 4) (nnn : BitVec 12) : Word := family ++ nnn

/-- Format REGIMM, and REGOP with NN as the sub-opcode: family, X, NN. -/
def encodeRegImm (family : BitVec 4) (x : Reg) (nn : Byte) : Word := (family ++ regNibble x) ++ nn

/-- Formats REGREG and DRAW: family, X, Y, and the last nibble. -/
def encodeRegReg (family : BitVec 4) (x y : Reg) (n : BitVec 4) : Word :=
  (family ++ regNibble x) ++ (regNibble y ++ n)

/-- The word of an instruction, from the patterns of R75. -/
def encode : Instr → Word
  | .cls => 0x00E0#16
  | .ret => 0x00EE#16
  | .sys nnn => encodeAddr 0x0#4 nnn
  | .jp nnn => encodeAddr 0x1#4 nnn
  | .call nnn => encodeAddr 0x2#4 nnn
  | .seImm x nn => encodeRegImm 0x3#4 x nn
  | .sneImm x nn => encodeRegImm 0x4#4 x nn
  | .seReg x y => encodeRegReg 0x5#4 x y 0x0#4
  | .ldImm x nn => encodeRegImm 0x6#4 x nn
  | .addImm x nn => encodeRegImm 0x7#4 x nn
  | .ldReg x y => encodeRegReg 0x8#4 x y 0x0#4
  | .orReg x y => encodeRegReg 0x8#4 x y 0x1#4
  | .andReg x y => encodeRegReg 0x8#4 x y 0x2#4
  | .xorReg x y => encodeRegReg 0x8#4 x y 0x3#4
  | .addReg x y => encodeRegReg 0x8#4 x y 0x4#4
  | .subReg x y => encodeRegReg 0x8#4 x y 0x5#4
  | .shr x y => encodeRegReg 0x8#4 x y 0x6#4
  | .subn x y => encodeRegReg 0x8#4 x y 0x7#4
  | .shl x y => encodeRegReg 0x8#4 x y 0xE#4
  | .sneReg x y => encodeRegReg 0x9#4 x y 0x0#4
  | .ldI nnn => encodeAddr 0xA#4 nnn
  | .jpV0 nnn => encodeAddr 0xB#4 nnn
  | .rnd x nn => encodeRegImm 0xC#4 x nn
  | .drw x y n => encodeRegReg 0xD#4 x y n
  | .skp x => encodeRegImm 0xE#4 x 0x9E#8
  | .sknp x => encodeRegImm 0xE#4 x 0xA1#8
  | .ldVxDt x => encodeRegImm 0xF#4 x 0x07#8
  | .ldVxK x => encodeRegImm 0xF#4 x 0x0A#8
  | .ldDtVx x => encodeRegImm 0xF#4 x 0x15#8
  | .ldStVx x => encodeRegImm 0xF#4 x 0x18#8
  | .addI x => encodeRegImm 0xF#4 x 0x1E#8
  | .ldF x => encodeRegImm 0xF#4 x 0x29#8
  | .ldB x => encodeRegImm 0xF#4 x 0x33#8
  | .storeRegs x => encodeRegImm 0xF#4 x 0x55#8
  | .loadRegs x => encodeRegImm 0xF#4 x 0x65#8
  | .unrecognized w => w

/-- The two bytes of an instruction in memory order (R52). -/
def encodeBytes (i : Instr) : List Byte := [highByte (encode i), lowByte (encode i)]

/-! ## The opcode map as a table (R75) -/

/-- The six formats of R72 and the default row's. -/
inductive OpFormat where
  | fix | addr | regImm | regReg | draw | regOp
  deriving DecidableEq, Repr

/-- A row of the map of R75: the pattern is the normative name, the label the spec's own mnemonic (R79). -/
structure OpcodeRow where
  pattern : String
  label : String
  format : OpFormat
  mask : Word
  bits : Word
  deriving DecidableEq, Repr

/-- "a word w selects the row when `w & mask = match`" (R75). -/
def OpcodeRow.selects (r : OpcodeRow) (w : Word) : Bool := w &&& r.mask == r.bits

/-- Rows of families 0 to 7. -/
def opcodeRowsLow : List OpcodeRow :=
  [⟨"00E0", "CLS", .fix, 0xFFFF#16, 0x00E0#16⟩,
   ⟨"00EE", "RET", .fix, 0xFFFF#16, 0x00EE#16⟩,
   ⟨"0NNN", "SYS nnn", .addr, 0xF000#16, 0x0000#16⟩,
   ⟨"1NNN", "JP nnn", .addr, 0xF000#16, 0x1000#16⟩,
   ⟨"2NNN", "CALL nnn", .addr, 0xF000#16, 0x2000#16⟩,
   ⟨"3XNN", "SE Vx, nn", .regImm, 0xF000#16, 0x3000#16⟩,
   ⟨"4XNN", "SNE Vx, nn", .regImm, 0xF000#16, 0x4000#16⟩,
   ⟨"5XY0", "SE Vx, Vy", .regReg, 0xF00F#16, 0x5000#16⟩,
   ⟨"6XNN", "LD Vx, nn", .regImm, 0xF000#16, 0x6000#16⟩,
   ⟨"7XNN", "ADD Vx, nn", .regImm, 0xF000#16, 0x7000#16⟩]

/-- Rows of families 8 to D. -/
def opcodeRowsMid : List OpcodeRow :=
  [⟨"8XY0", "LD Vx, Vy", .regReg, 0xF00F#16, 0x8000#16⟩,
   ⟨"8XY1", "OR Vx, Vy", .regReg, 0xF00F#16, 0x8001#16⟩,
   ⟨"8XY2", "AND Vx, Vy", .regReg, 0xF00F#16, 0x8002#16⟩,
   ⟨"8XY3", "XOR Vx, Vy", .regReg, 0xF00F#16, 0x8003#16⟩,
   ⟨"8XY4", "ADD Vx, Vy", .regReg, 0xF00F#16, 0x8004#16⟩,
   ⟨"8XY5", "SUB Vx, Vy", .regReg, 0xF00F#16, 0x8005#16⟩,
   ⟨"8XY6", "SHR Vx, Vy", .regReg, 0xF00F#16, 0x8006#16⟩,
   ⟨"8XY7", "SUBN Vx, Vy", .regReg, 0xF00F#16, 0x8007#16⟩,
   ⟨"8XYE", "SHL Vx, Vy", .regReg, 0xF00F#16, 0x800E#16⟩,
   ⟨"9XY0", "SNE Vx, Vy", .regReg, 0xF00F#16, 0x9000#16⟩,
   ⟨"ANNN", "LD I, nnn", .addr, 0xF000#16, 0xA000#16⟩,
   ⟨"BNNN", "JP V0, nnn", .addr, 0xF000#16, 0xB000#16⟩,
   ⟨"CXNN", "RND Vx, nn", .regImm, 0xF000#16, 0xC000#16⟩,
   ⟨"DXYN", "DRW Vx, Vy, n", .draw, 0xF000#16, 0xD000#16⟩]

/-- Rows of families E and F. -/
def opcodeRowsHigh : List OpcodeRow :=
  [⟨"EX9E", "SKP Vx", .regOp, 0xF0FF#16, 0xE09E#16⟩,
   ⟨"EXA1", "SKNP Vx", .regOp, 0xF0FF#16, 0xE0A1#16⟩,
   ⟨"FX07", "LD Vx, DT", .regOp, 0xF0FF#16, 0xF007#16⟩,
   ⟨"FX0A", "LD Vx, K", .regOp, 0xF0FF#16, 0xF00A#16⟩,
   ⟨"FX15", "LD DT, Vx", .regOp, 0xF0FF#16, 0xF015#16⟩,
   ⟨"FX18", "LD ST, Vx", .regOp, 0xF0FF#16, 0xF018#16⟩,
   ⟨"FX1E", "ADD I, Vx", .regOp, 0xF0FF#16, 0xF01E#16⟩,
   ⟨"FX29", "LD F, Vx", .regOp, 0xF0FF#16, 0xF029#16⟩,
   ⟨"FX33", "LD B, Vx", .regOp, 0xF0FF#16, 0xF033#16⟩,
   ⟨"FX55", "LD [I], Vx", .regOp, 0xF0FF#16, 0xF055#16⟩,
   ⟨"FX65", "LD Vx, [I]", .regOp, 0xF0FF#16, 0xF065#16⟩]

/-- The 35 patterns of R75, in its order; 00E0 and 00EE stand before 0NNN and so take precedence. -/
def opcodeRows : List OpcodeRow := opcodeRowsLow ++ (opcodeRowsMid ++ opcodeRowsHigh)

/-- The number of the first row a word selects (R75); 35, the default row, where none does. -/
def rowOfWord (w : Word) : Nat := opcodeRows.findIdx (fun r => r.selects w)

/-- The number of an instruction's row in R75; 35 is the default row. -/
def Instr.row : Instr → Nat
  | .cls => 0
  | .ret => 1
  | .sys _ => 2
  | .jp _ => 3
  | .call _ => 4
  | .seImm _ _ => 5
  | .sneImm _ _ => 6
  | .seReg _ _ => 7
  | .ldImm _ _ => 8
  | .addImm _ _ => 9
  | .ldReg _ _ => 10
  | .orReg _ _ => 11
  | .andReg _ _ => 12
  | .xorReg _ _ => 13
  | .addReg _ _ => 14
  | .subReg _ _ => 15
  | .shr _ _ => 16
  | .subn _ _ => 17
  | .shl _ _ => 18
  | .sneReg _ _ => 19
  | .ldI _ => 20
  | .jpV0 _ => 21
  | .rnd _ _ => 22
  | .drw _ _ _ => 23
  | .skp _ => 24
  | .sknp _ => 25
  | .ldVxDt _ => 26
  | .ldVxK _ => 27
  | .ldDtVx _ => 28
  | .ldStVx _ => 29
  | .addI _ => 30
  | .ldF _ => 31
  | .ldB _ => 32
  | .storeRegs _ => 33
  | .loadRegs _ => 34
  | .unrecognized _ => 35

end Sys2Proof
end

