-- ==== Sys2Proof/Machine/Fetch.lean ====
section
/-! DEFINITION. The fetch, the skeleton of the step around an execution function, the step's diagnostic, and the
placing of a word where the next fetch reads (spec/40_control_flow.md R100, spec/20_memory.md R52,
spec/60_exceptions.md R187). -/

namespace Sys2Proof.Machine

/-- `Fetch(PC) = MEM[PC] ++ MEM[PC+1]` (R10, R52), big-endian. -/
def State.fetchWord (s : State) : Word := wordOfBytes (s.readByte s.pc.toNat) (s.readByte (s.pc.toNat + 1))

/-- A fetch is defined for 0 ≤ PC ≤ 4094 only (R52). -/
def State.canFetch (s : State) : Bool := decide (s.pc.toNat + 1 < Config.memSize)

/-- The step of R100 with `run` as its item 5: a faulted block changes nothing; PC > 4094 raises `PcOutOfBounds(PC)`
before anything is read; otherwise the word at PC is fetched, decoded and run. -/
def fetchExecute (run : Instr → State → Result) (s : State) : Result :=
  if s.fault.isSome then .next s
  else if s.canFetch then run (decode s.fetchWord) s
  else raise (.pcOutOfBounds s.pc) s

/-- The output `diag` of a step (R187): not state, so a function of the state the step starts from (log 16). -/
inductive Diag where
  | none
  | sys (w : Word)
  | unknown (w : Word)
  deriving DecidableEq, Repr

/-- The diagnostic of an executed instruction, `w` being the fetched word (R100, item 6). -/
def instrDiag (i : Instr) (w : Word) : Diag :=
  match i with
  | .sys _ => .sys w
  | .unrecognized _ => .unknown w
  | _ => .none

/-- The diagnostic of the step taken from `s`: `DiagNone` while faulted and for a step that faults (R100, R182). -/
def stepDiag (s : State) : Diag :=
  if s.fault.isNone && s.canFetch then instrDiag (decode s.fetchWord) s.fetchWord else .none

/-- Where a word placed from outside the machine goes: PC if a fetch is defined there, else the load address. -/
def State.placeAddr (s : State) : Nat := if s.canFetch then s.pc.toNat else Config.progBase

/-- A word placed so that the next step runs it: its two bytes at PC (R52), with PC in the fetchable range and no fault
recorded, which is all a fetch needs (R100; log 19). -/
def State.placeWord (s : State) (w : Word) : State :=
  { s with
    mem := s.mem.writeList s.font s.placeAddr [highByte w, lowByte w]
    pc := BitVec.ofNat 16 s.placeAddr
    fault := none }

end Sys2Proof.Machine
end

