-- ==== Sys2Proof/Machine/Step.lean ====
section
/-! DEFINITION. One step of the machine (spec/40_control_flow.md R100), and the host's placing of an instruction. -/

namespace Sys2Proof.Machine

/-- "fetches the word at PC, decodes it, and executes exactly one opcode family" (R100); the byte `rnd` is the free
value of `execRnd`. -/
def step (s : State) : Host.Outcome State Fault Refusal := fetchExecute exec s

/-- `s` with the instruction whose bits are `w`, numbered as spec/opcode_table.json numbers them and 0 from `nbits` up,
stored where the next step fetches (log 19). -/
def State.withFetchWord (s : State) (nbits w : Nat) : State := s.placeWord (BitVec.ofNat 16 (w % 2 ^ nbits))

end Sys2Proof.Machine
end

