-- ==== Sys2Proof/Machine/Boundary.lean ====
section
/-! DEFINITION. The boundary operations (spec/00_scope.md R8): `reset`, `load`, `capture`, `step(rnd)`, `tick`,
`ack_redraw`, each one atomic transition (spec/20_memory.md R57), a driver that runs them in any order, and the frame
schedule (spec/70_reset_and_hazards.md R202). -/

namespace Sys2Proof.Machine

/-! ## The operations -/

/-- `capture(key_in)` (R160): PREV takes KEYS, KEYS takes the sample; the same when faulted. -/
def State.capture (s : State) (keyIn : BitVec 16) : State := { s with prev := s.keys, keys := keyIn }

/-- A timer counts down by 1 if nonzero (R173). -/
def countDown (t : Byte) : Byte := if t = 0 then 0 else t - 1

/-- `tick` (R173): BEEP takes whether ST was nonzero before the decrement (R174), then both timers count down. -/
def State.tick (s : State) : State :=
  { s with beep := decide (s.st ≠ 0), dt := countDown s.dt, st := countDown s.st }

/-- `ack_redraw` (R153): DRAW <- 0 and nothing else. -/
def State.ackRedraw (s : State) : State := { s with draw := false }

/-- `load(bytes)` (R201): the report, and the state; over 3584 bytes nothing changes and failure is reported. -/
def State.load (s : State) (bytes : List Byte) : Bool × State :=
  if Config.romMax < bytes.length then (false, s) else (true, s.storeBytes Config.progBase bytes)

/-- `reset` (R200): every element at its reset value, from any state, faulted ones too. The font is the
machine's own, "fixed for the life of the hardware" (R36 (f)). -/
def State.resetAgain (s : State) : State := State.resetWith s.font

/-- The execution of one instruction with the step's input `rnd`: only CXNN reads it (R100, R131). -/
def execWithRnd (rnd : Byte) (i : Instr) (s : State) : Result :=
  match i with
  | .rnd x nn => .next (rndInto rnd x nn s)
  | j => exec j s

/-- `step(rnd)` (R100) with the byte the surroundings present. -/
def stepWithRnd (rnd : Byte) (s : State) : Result := fetchExecute (execWithRnd rnd) s

/-! ## The driver -/

/-- One boundary operation with its inputs (R8). -/
inductive BoundaryOp where
  | reset
  | load (bytes : List Byte)
  | capture (keyIn : BitVec 16)
  | step (rnd : Byte)
  | tick
  | ackRedraw
  deriving DecidableEq, Repr

/-- Where a session stands between `reset` and the first step: `load` is specified there only (R201, D21; log 13). -/
inductive Phase where
  | afterReset
  | loaded
  | running
  deriving DecidableEq, Repr

/-- What an operation hands to the surroundings beside the state (R8, R187, R201). -/
inductive Output where
  | none
  | loadReport (accepted : Bool)
  | diag (d : Diag)
  deriving DecidableEq, Repr

/-- The block under its surroundings: the state, the phase, and the last operation's output. Not part of R20's state. -/
structure Session where
  state : State
  phase : Phase
  output : Output
  deriving DecidableEq, Repr

/-- The session right after `reset`. -/
def Session.start (font : Config.Font) : Session := ⟨State.resetWith font, .afterReset, .none⟩

/-- One boundary operation. A load outside its window is refused (R201, V9; log 13). -/
def Session.apply (op : BoundaryOp) (x : Session) : Host.Outcome Session Fault Refusal :=
  match op with
  | .reset => .next ⟨x.state.resetAgain, .afterReset, .none⟩
  | .load bytes =>
    if x.phase = .afterReset then
      .next ⟨(x.state.load bytes).2, .loaded, .loadReport (x.state.load bytes).1⟩
    else .refused .loadOutsideBoot
  | .capture keyIn => .next { x with state := x.state.capture keyIn, output := .none }
  | .step rnd =>
    match stepWithRnd rnd x.state with
    | .next t => .next ⟨t, .running, .diag (stepDiag x.state)⟩
    | .fault f => .fault f
    | .refused r => .refused r
  | .tick => .next { x with state := x.state.tick, output := .none }
  | .ackRedraw => .next { x with state := x.state.ackRedraw, output := .none }

/-- A sequence of boundary operations, in the order the surroundings invoke them (R58). -/
def Session.run : List BoundaryOp → Session → Host.Outcome Session Fault Refusal
  | [], x => .next x
  | op :: ops, x =>
    match x.apply op with
    | .next y => Session.run ops y
    | .fault f => .fault f
    | .refused r => .refused r

/-! ## The frame (R202) -/

/-- The operations of a frame before the display is looked at: capture once, the steps, tick once (R202). -/
def frameOps (keyIn : BitVec 16) (rnds : List Byte) : List BoundaryOp :=
  .capture keyIn :: (rnds.map .step ++ [.tick])

/-- The number of steps the schedule gives a frame, an open parameter (R202; log 21). -/
def frameOfLength (rnds : List Byte) : Prop := rnds.length = Config.stepsPerFrame

/-- One frame of the schedule: its operations, then `ack_redraw` if DRAW is set (R202). -/
def Session.frame (keyIn : BitVec 16) (rnds : List Byte) (x : Session) : Host.Outcome Session Fault Refusal :=
  match Session.run (frameOps keyIn rnds) x with
  | .next y => if y.state.draw then y.apply .ackRedraw else .next y
  | .fault f => .fault f
  | .refused r => .refused r

end Sys2Proof.Machine
end

