-- ==== Sys2Proof/Safety.lean ====
section
/-! DEFINITION. What claims about a run are stated in: a fault recorded, a parked run (spec/70_reset_and_hazards.md
R208), the key wait (spec/44_keypad.md R164), and the invariant of the machine (spec/10_state.md R40). -/

namespace Sys2Proof.Machine

/-- No fault is recorded and a fetch is defined: the next step runs an instruction (R100). -/
def State.Running (s : State) : Prop := s.fault = none ∧ s.canFetch = true

/-- "faulted: `FAULT ≠ None`" (R208 (b)): the run has ended badly. -/
def State.Faulted (s : State) : Prop := s.fault ≠ none

/-- "parked: the word at PC is 1NNN with NNN = PC (a jump to itself)" (R208 (a), D26, log 26): the run has ended well. -/
def State.Parked (s : State) : Prop := s.Running ∧ ∃ nnn, decode s.fetchWord = .jp nnn ∧ zextAddr nnn = s.pc

/-- "the block is Armed exactly when the word at PC decodes to FX0A" (R164), X being the register. -/
def State.Armed (s : State) (x : Reg) : Prop := s.Running ∧ decode s.fetchWord = .ldVxK x

/-- Every return address in use was a fetched PC (R40): `STACK[i] ≤ 4094` for i < SP. -/
def State.StackInv (s : State) : Prop :=
  ∀ k : Fin 16, k.val < s.sp.val → s.stack[k].toNat + 1 < Config.memSize

/-- The invariant of a running machine: the stack holds fetched PCs (R40), PC is at most 0x10FE, the largest
target of BNNN, and memory is in its canonical form (the model's own clause, log 22). -/
structure State.Inv (s : State) : Prop where
  memory : s.mem.wf s.font = true
  stack : s.StackInv
  pc : s.pc.toNat ≤ 0x10FE

/-! ## Frames: which elements of the state an instruction may change -/

/-- The elements of R20, and the model's own counter and parameter. -/
inductive Component where
  | v | i | pc | stack | sp | mem | fb | draw | dt | st | keys | prev | beep | fault | draws | font
  deriving DecidableEq, Repr

/-- An element is the same in both states; memory and registers are compared by reading them. -/
def Kept (c : Component) (s t : State) : Prop :=
  match c with
  | .v => ∀ r, t.reg r = s.reg r
  | .i => t.i = s.i
  | .pc => t.pc = s.pc
  | .stack => t.stack = s.stack
  | .sp => t.sp = s.sp
  | .mem => ∀ a, t.readByte a = s.readByte a
  | .fb => ∀ p, t.fb.lit p = s.fb.lit p
  | .draw => t.draw = s.draw
  | .dt => t.dt = s.dt
  | .st => t.st = s.st
  | .keys => t.keys = s.keys
  | .prev => t.prev = s.prev
  | .beep => t.beep = s.beep
  | .fault => t.fault = s.fault
  | .draws => t.draws = s.draws
  | .font => t.font = s.font

/-- Every element but the listed ones is unchanged. -/
def ChangesOnly (cs : List Component) (s t : State) : Prop := ∀ c, c ∉ cs → Kept c s t

/-- The elements an instruction may write, read off the rules that say who writes what (R21 to R35, R101, R181). -/
def footprint : Instr → List Component
  | .cls => [.fb, .draw, .pc]
  | .ret => [.sp, .pc, .fault]
  | .call _ => [.stack, .sp, .pc, .fault]
  | .ldImm _ _ | .addImm _ _ | .ldReg _ _ | .ldVxDt _ | .ldVxK _ => [.v, .pc]
  | .orReg _ _ | .andReg _ _ | .xorReg _ _ | .addReg _ _ | .subReg _ _ | .shr _ _ | .subn _ _ | .shl _ _ => [.v, .pc]
  | .rnd _ _ => [.v, .pc, .draws]
  | .ldI _ | .addI _ | .ldF _ => [.i, .pc]
  | .drw _ _ _ => [.v, .fb, .draw, .pc, .fault]
  | .skp _ | .sknp _ => [.pc, .fault]
  | .ldDtVx _ => [.dt, .pc]
  | .ldStVx _ => [.st, .pc]
  | .ldB _ => [.mem, .pc, .fault]
  | .storeRegs _ => [.mem, .i, .pc, .fault]
  | .loadRegs _ => [.v, .i, .pc, .fault]
  | .sys _ | .jp _ | .jpV0 _ | .seImm _ _ | .sneImm _ _ | .seReg _ _ | .sneReg _ _ | .unrecognized _ => [.pc]

/-- The X operand of the instructions whose destination is VX (R22, R120 to R131, R163, R170); none for the others. -/
def destination : Instr → Option Reg
  | .ldImm x _ | .addImm x _ | .ldReg x _ | .rnd x _ | .ldVxDt x | .ldVxK x => some x
  | .orReg x _ | .andReg x _ | .xorReg x _ | .addReg x _ | .subReg x _ | .shr x _ | .subn x _ | .shl x _ => some x
  | _ => none

/-- The instructions that write VF as a side effect, "exactly" (R22). -/
def writesFlag : Instr → Bool
  | .orReg _ _ | .andReg _ _ | .xorReg _ _ | .addReg _ _ | .subReg _ _ | .shr _ _ | .subn _ _ | .shl _ _ => true
  | .drw _ _ _ => true
  | _ => false

/-- PC after a step that raises no fault, with P the value before (the table of R101). -/
def pcAfter (i : Instr) (s t : State) : Prop :=
  match i with
  | .jp nnn | .call nnn => t.pc.toNat = nnn.toNat
  | .jpV0 nnn => t.pc.toNat = (nnn.toNat + (s.reg V0).toNat) % 65536
  | .ret => ∃ h : s.sp.val - 1 < 16, t.pc.toNat = ((s.stack[s.sp.val - 1]'h).toNat + 2) % 65536
  | .seImm _ _ | .sneImm _ _ | .seReg _ _ | .sneReg _ _ | .skp _ | .sknp _ => t.pc = s.pc + 4 ∨ t.pc = s.pc + 2
  | .ldVxK _ => t.pc = s.pc + 2 ∨ t.pc = s.pc
  | _ => t.pc = s.pc + 2

/-! ## The picture a sprite makes (R151, R152) -/

/-- A set bit of the sprite `MEM[I..I+n-1]` falls on pixel `p`, the origin being (VX, VY): in clipping mode the pixel is
the sum itself, in wrapping mode the sum modulo 64 and 32 (R151). -/
def Covered (s : State) (x y : Reg) (n : BitVec 4) (p : Pixel) : Prop :=
  ∃ r c : Nat, r < n.toNat ∧ c < 8 ∧ (s.readByte (s.i.toNat + r)).getLsbD (7 - c) = true ∧
    if (s.reg x).toNat < 64 ∧ (s.reg y).toNat < 32 then
      p.col.val = (s.reg x).toNat + c ∧ p.row.val = (s.reg y).toNat + r
    else p.col.val = ((s.reg x).toNat + c) % 64 ∧ p.row.val = ((s.reg y).toNat + r) % 32

end Sys2Proof.Machine
end

