-- ==== Sys2Proof/Certificates/Slice0/Obligations.lean ====
section
/-! DEFINITION. The statements about the CHIP-8 CORE, from the numbered rules of spec/. `ChangesOnly cs s t` is the frame:
every element of the state not listed in `cs` is unchanged, memory and registers being compared by reading them. D<n> is
a decision the spec marks as its own (spec/92_eei_decisions.md), log <n> a row of notes/assumptions/. A hypothesis or a
clause that memory is canonical (`wf`) is about the model's own form of memory (log 22, DESIGN CHOICE), not a rule. -/

open Sys2Proof Sys2Proof.Machine

/-! ## Encoding and decoding (30_encoding.md) -/

/-- R75: words written out from the patterns, at least one of each of the 16 families, decode to the instructions they stand
for. That 01E0 is SYS and not CLS is the spec's decision D15 (log 9). -/
def Obligations.DecodesWrittenWords : Prop :=
  decode 0x00E0#16 = .cls ∧ decode 0x00EE#16 = .ret ∧ decode 0x01E0#16 = .sys 0x1E0#12 ∧
  decode 0x1ABC#16 = .jp 0xABC#12 ∧ decode 0x2345#16 = .call 0x345#12 ∧ decode 0x3A42#16 = .seImm 10 0x42#8 ∧
  decode 0x4301#16 = .sneImm 3 0x01#8 ∧ decode 0x5120#16 = .seReg 1 2 ∧ decode 0x6A07#16 = .ldImm 10 0x07#8 ∧
  decode 0x7103#16 = .addImm 1 0x03#8 ∧ decode 0x812E#16 = .shl 1 2 ∧ decode 0x9120#16 = .sneReg 1 2 ∧
  decode 0xA2F0#16 = .ldI 0x2F0#12 ∧ decode 0xB301#16 = .jpV0 0x301#12 ∧ decode 0xC30F#16 = .rnd 3 0x0F#8 ∧
  decode 0xD125#16 = .drw 1 2 0x5#4 ∧
  decode 0xE3A1#16 = .sknp 3 ∧ decode 0xF40A#16 = .ldVxK 4 ∧ decode 0xF565#16 = .loadRegs 5 ∧
  decode 0x8128#16 = .unrecognized 0x8128#16

/-- R71 to R75: decoding the word of a well-formed instruction gives it back, every operand at every value (the exact
matching of 00E0, 00EE, 5XY0 and 9XY0 is D15, log 9). -/
def Obligations.DecodeOfEncode : Prop := ∀ i : Instr, i.wellFormed = true → decode (encode i) = i

/-- R74: decoding is total, answers a well-formed instruction, and drops no bit of the word but none: encoding what
was decoded gives the word back (D15, log 9, for which words are SYS or unrecognized). -/
def Obligations.EncodeOfDecode : Prop := ∀ w : Word, (decode w).wellFormed = true ∧ encode (decode w) = w

/-- R75: the decode procedure selects the first row of the opcode map whose mask and match fit the word
(the masks of 00E0, 00EE, 5XY0 and 9XY0 are D15, log 9). -/
def Obligations.DecodeSelectsFirstTableRow : Prop := ∀ w : Word, (decode w).row = rowOfWord w

/-- R76, R77: which words are unrecognized and which are SYS, exactly (by D15, log 9). -/
def Obligations.UnrecognizedAndSysWords : Prop :=
  ∀ w : Word, (decode w = .unrecognized w ↔ unrecognizedWord w = true) ∧
    ((∃ nnn, decode w = .sys nnn) ↔ w.toNat < 0x1000 ∧ w ≠ 0x00E0#16 ∧ w ≠ 0x00EE#16)

/-! ## The step (40_control_flow.md R100) -/

/-- R52, R100: with no fault recorded and PC in 0..4094, the two bytes at PC, high byte first, being the word of a
well-formed instruction, the step is that instruction's execution and nothing else. -/
def Obligations.StepRunsDecodedInstruction : Prop :=
  ∀ (i : Instr) (s : State), i.wellFormed = true → s.fault = none → s.pc.toNat ≤ 4094 →
    s.readByte s.pc.toNat = highByte (encode i) → s.readByte (s.pc.toNat + 1) = lowByte (encode i) →
    step s = exec i s

/-- The model's placing of a word (log 19): from any state with canonical memory (log 22), the very next step runs it. -/
def Obligations.PlacedWordIsRunNext : Prop :=
  ∀ (s : State) (w : Word), s.mem.wf s.font = true →
    step (s.withFetchWord 16 w.toNat) = exec (decode w) (s.withFetchWord 16 w.toNat)

/-- R100 item 1, R184 (the spec's decision D25, log 4): while a fault is recorded a step changes nothing at all. -/
def Obligations.FaultedStepChangesNothing : Prop := ∀ s : State, s.fault ≠ none → step s = .next s

/-- R100 item 2, R181 (D2, D24; logs 4, 23): PC above 4094 raises PcOutOfBounds with that PC, and nothing else changes. -/
def Obligations.FetchBeyondMemoryFaults : Prop :=
  ∀ s : State, s.fault = none → 4094 < s.pc.toNat →
    ∃ t, step s = .next t ∧ t.fault = some (.pcOutOfBounds s.pc) ∧ ChangesOnly [.fault] s t

/-- THE MODEL'S CHOICE (log 4, DESIGN CHOICE): the host's outcomes `fault` and `refused` are never answered; every step and
every instruction answers a next state, from every state. The spec's rules say only what that state is (a raised fault
changes FAULT, R182; a faulted step changes nothing, R184; an unrecognized word is never fatal, R111). -/
def Obligations.EveryStepAnswersNext : Prop :=
  (∀ s : State, ∃ t, step s = .next t) ∧ ∀ (i : Instr) (s : State), ∃ t, exec i s = .next t

/-- R36, R131 (D12, log 1): the input rnd is read by CXNN alone; on any other word the step is the same for every two inputs. -/
def Obligations.RandomInputReadOnlyByRnd : Prop :=
  ∀ (a b : Byte) (s : State), (∀ x nn, decode s.fetchWord ≠ .rnd x nn) →
    stepWithRnd a s = stepWithRnd b s ∧ stepWithRnd a s = step s

/-- R187 (D18, log 16): the diagnostic of a step is DiagSys(w) for SYS, DiagUnknown(w) for an unrecognized word, else none. -/
def Obligations.DiagnosticOfStep : Prop :=
  ∀ s : State,
    (s.fault = none → s.pc.toNat ≤ 4094 →
      (∀ nnn, decode s.fetchWord = .sys nnn → stepDiag s = .sys s.fetchWord) ∧
      (∀ w, decode s.fetchWord = .unrecognized w → stepDiag s = .unknown s.fetchWord) ∧
      ((∀ nnn, decode s.fetchWord ≠ .sys nnn) → (∀ w, decode s.fetchWord ≠ .unrecognized w) → stepDiag s = .none)) ∧
    (s.fault ≠ none → stepDiag s = .none) ∧ (4094 < s.pc.toNat → stepDiag s = .none)

/-! ## Whole-machine rules -/

/-- R21 to R35: each instruction writes only the elements the rules give it, FAULT only where R181 lists it. -/
def Obligations.InstructionFootprint : Prop :=
  ∀ (i : Instr) (s t : State), exec i s = .next t → ChangesOnly (footprint i) s t

/-- R22: an instruction outside the listed flag writers leaves VF alone unless VF is its destination register (FX65 with
X = 15 loads it from memory). -/
def Obligations.OnlyListedInstructionsWriteFlag : Prop :=
  ∀ (i : Instr) (s t : State), exec i s = .next t → writesFlag i = false → destination i ≠ some VF →
    i ≠ .loadRegs VF → t.reg VF = s.reg VF

/-- R101: where PC is after an instruction that raises no fault (UNRECOGNIZED by D4, log 3). -/
def Obligations.ProgramCounterTable : Prop :=
  ∀ (i : Instr) (s t : State), s.fault = none → exec i s = .next t → t.fault = none → pcAfter i s t

/-- R182 (D3, log 4): an instruction that raises a fault writes FAULT and nothing else; PC stays at the instruction. -/
def Obligations.FaultsArePrecise : Prop :=
  ∀ (i : Instr) (s t : State) (f : Fault), s.fault = none → exec i s = .next t → t.fault = some f →
    ChangesOnly [.fault] s t

/-- R154: a step that ends with DRAW = 0 has not written the framebuffer. -/
def Obligations.RedrawFlagCoversFramebuffer : Prop :=
  ∀ s t : State, step s = .next t → t.draw = false → t.fb = s.fb

/-! ## Control flow (40_control_flow.md) -/

/-- R102: SYS advances PC by 2 and changes nothing else, whatever its operand. -/
def Obligations.SysIsNoOperation : Prop :=
  ∀ (nnn : BitVec 12) (s : State),
    ∃ t, exec (.sys nnn) s = .next t ∧ t.pc = s.pc + 2 ∧ ChangesOnly [.pc] s t

/-- R103: RET takes PC from the top entry plus 2 and leaves the entry; with SP = 0 it raises StackUnderflow
(D2, log 4). -/
def Obligations.RetPopsAddressPlusTwo : Prop :=
  ∀ s : State,
    (s.sp = 0 → ∃ t, exec .ret s = .next t ∧ t.fault = some .stackUnderflow ∧ ChangesOnly [.fault] s t) ∧
    (∀ k : Fin 16, s.sp.val = k.val + 1 →
      ∃ t, exec .ret s = .next t ∧ t.sp.val = k.val ∧ t.pc = s.stack[k] + 2 ∧ ChangesOnly [.sp, .pc] s t)

/-- R105: CALL pushes its own address and jumps; with SP = 16 it raises StackOverflow (D2, log 4). -/
def Obligations.CallPushesOwnAddress : Prop :=
  ∀ (nnn : BitVec 12) (s : State),
    (s.sp = 16 → ∃ t, exec (.call nnn) s = .next t ∧ t.fault = some .stackOverflow ∧ ChangesOnly [.fault] s t) ∧
    (∀ k : Fin 16, s.sp.val = k.val →
      ∃ t, exec (.call nnn) s = .next t ∧ t.stack[k] = s.pc ∧ (∀ j : Fin 16, j ≠ k → t.stack[j] = s.stack[j]) ∧
        t.sp.val = k.val + 1 ∧ t.pc.toNat = nnn.toNat ∧ ChangesOnly [.stack, .sp, .pc] s t)

/-- R103, R105: a RET right after a CALL resumes behind the CALL with the stack pointer as it was. -/
def Obligations.CallThenRetResumesAfterCall : Prop :=
  ∀ (nnn : BitVec 12) (s : State), s.sp.val < 16 →
    ∃ t u, exec (.call nnn) s = .next t ∧ exec .ret t = .next u ∧ u.pc = s.pc + 2 ∧
      ChangesOnly [.pc, .stack] s u

/-- R104: JP writes NNN to PC, unchecked; only NNN = 4095 leaves a PC that cannot be fetched from. -/
def Obligations.JpSetsProgramCounter : Prop :=
  ∀ (nnn : BitVec 12) (s : State),
    ∃ t, exec (.jp nnn) s = .next t ∧ t.pc.toNat = nnn.toNat ∧ (4094 < t.pc.toNat ↔ nnn = 4095#12) ∧
      ChangesOnly [.pc] s t

/-- R110: BNNN adds V0, never VX, and does not mask the sum. -/
def Obligations.JpV0AddsRegisterZero : Prop :=
  ∀ (nnn : BitVec 12) (s : State),
    ∃ t, exec (.jpV0 nnn) s = .next t ∧ t.pc.toNat = nnn.toNat + (s.reg 0).toNat ∧ ChangesOnly [.pc] s t

/-- R106, R107: the skips against an immediate. -/
def Obligations.ImmediateSkips : Prop :=
  ∀ (x : Reg) (nn : Byte) (s : State),
    (∃ t, exec (.seImm x nn) s = .next t ∧
      t.pc = (if (s.reg x).toNat = nn.toNat then s.pc + 4 else s.pc + 2) ∧ ChangesOnly [.pc] s t) ∧
    (∃ t, exec (.sneImm x nn) s = .next t ∧
      t.pc = (if (s.reg x).toNat = nn.toNat then s.pc + 2 else s.pc + 4) ∧ ChangesOnly [.pc] s t)

/-- R108, R109: the skips against a register; X = Y always skips, respectively never. -/
def Obligations.RegisterSkips : Prop :=
  ∀ (x y : Reg) (s : State),
    (∃ t, exec (.seReg x y) s = .next t ∧
      t.pc = (if (s.reg x).toNat = (s.reg y).toNat then s.pc + 4 else s.pc + 2) ∧ ChangesOnly [.pc] s t) ∧
    (∃ t, exec (.sneReg x y) s = .next t ∧
      t.pc = (if (s.reg x).toNat = (s.reg y).toNat then s.pc + 2 else s.pc + 4) ∧ ChangesOnly [.pc] s t)

/-- R111: an unrecognized word advances PC by 2 (D4, log 3); under either named policy nothing but PC can change. -/
def Obligations.UnrecognizedWordContinues : Prop :=
  (∀ (w : Word) (s : State),
    ∃ t, exec (.unrecognized w) s = .next t ∧ t.pc = s.pc + 2 ∧ ChangesOnly [.pc] s t) ∧
  ∀ (p : Config.UnknownPcPolicy) (s : State),
    ∃ t, unrecognizedUnder p s = .next t ∧ (t.pc = s.pc + 2 ∨ t.pc = s.pc) ∧ ChangesOnly [.pc] s t

/-- R208 (a) (the spec's decision D26, log 26): a jump to its own address leaves the whole state unchanged at every step. -/
def Obligations.ParkedRunStaysParked : Prop :=
  ∀ (s : State) (n : Nat), s.Parked → Host.Core.run core n s = .next s

/-! ## Registers and arithmetic (41_alu.md) -/

/-- R120, R121, R122: the loads and the add immediate write VX and no flag. -/
def Obligations.LoadsAndAddImmediate : Prop :=
  ∀ (x y : Reg) (nn : Byte) (s : State),
    (∃ t, exec (.ldImm x nn) s = .next t ∧ t.reg x = nn ∧ (∀ r, r ≠ x → t.reg r = s.reg r) ∧ t.pc = s.pc + 2 ∧
      ChangesOnly [.v, .pc] s t) ∧
    (∃ t, exec (.addImm x nn) s = .next t ∧ (t.reg x).toNat = ((s.reg x).toNat + nn.toNat) % 256 ∧
      (∀ r, r ≠ x → t.reg r = s.reg r) ∧ t.pc = s.pc + 2 ∧ ChangesOnly [.v, .pc] s t) ∧
    (∃ t, exec (.ldReg x y) s = .next t ∧ t.reg x = s.reg y ∧ (∀ r, r ≠ x → t.reg r = s.reg r) ∧ t.pc = s.pc + 2 ∧
      ChangesOnly [.v, .pc] s t)

/-- R123, R124, R125: OR, AND and XOR bit by bit, VF forced to 0 (last, also for X = 15: D8, log 5). -/
def Obligations.LogicForcesFlagToZero : Prop :=
  ∀ (i : Instr) (x y : Reg) (f : Bool → Bool → Bool) (s : State),
    (i = .orReg x y ∧ f = or) ∨ (i = .andReg x y ∧ f = and) ∨ (i = .xorReg x y ∧ f = xor) →
    ∃ t, exec i s = .next t ∧
      (x ≠ VF → ∀ k < 8, (t.reg x).getLsbD k = f ((s.reg x).getLsbD k) ((s.reg y).getLsbD k)) ∧
      t.reg VF = 0 ∧ (∀ r, r ≠ x → r ≠ VF → t.reg r = s.reg r) ∧ t.pc = s.pc + 2 ∧ ChangesOnly [.v, .pc] s t

/-- R126: the sum modulo 256, VF 1 exactly when the true sum exceeds 255 (last, also for X = 15: D8, log 5). -/
def Obligations.AddSetsCarry : Prop :=
  ∀ (x y : Reg) (s : State),
    ∃ t, exec (.addReg x y) s = .next t ∧
      (x ≠ VF → (t.reg x).toNat = ((s.reg x).toNat + (s.reg y).toNat) % 256) ∧
      (t.reg VF).toNat = (if 255 < (s.reg x).toNat + (s.reg y).toNat then 1 else 0) ∧
      (∀ r, r ≠ x → r ≠ VF → t.reg r = s.reg r) ∧ t.pc = s.pc + 2 ∧ ChangesOnly [.v, .pc] s t

/-- R127, R129: the two differences modulo 256, VF 0 exactly on a borrow (last, also for X = 15: D8, log 5). -/
def Obligations.SubtractionsSetNotBorrow : Prop :=
  ∀ (i : Instr) (x y p q : Reg) (s : State),
    (i = .subReg x y ∧ p = x ∧ q = y) ∨ (i = .subn x y ∧ p = y ∧ q = x) →
    ∃ t, exec i s = .next t ∧
      (x ≠ VF → (t.reg x).toNat = ((s.reg p).toNat + 256 - (s.reg q).toNat) % 256) ∧
      (t.reg VF).toNat = (if (s.reg p).toNat < (s.reg q).toNat then 0 else 1) ∧
      (∀ r, r ≠ x → r ≠ VF → t.reg r = s.reg r) ∧ t.pc = s.pc + 2 ∧ ChangesOnly [.v, .pc] s t

/-- R128, R130: the shifts take VY; VF is the bit shifted out; with X = 15 the three writes in order leave 0, respectively
2 or 0 (D8, log 5). -/
def Obligations.ShiftsTakeVy : Prop :=
  ∀ (x y : Reg) (s : State),
    (∃ t, exec (.shr x y) s = .next t ∧
      (x ≠ VF → (t.reg x).toNat = (s.reg y).toNat / 2 ∧ (t.reg VF).toNat = (s.reg y).toNat % 2) ∧
      (x = VF → t.reg VF = 0) ∧
      (∀ r, r ≠ x → r ≠ VF → t.reg r = s.reg r) ∧ t.pc = s.pc + 2 ∧ ChangesOnly [.v, .pc] s t) ∧
    (∃ t, exec (.shl x y) s = .next t ∧
      (x ≠ VF → (t.reg x).toNat = 2 * (s.reg y).toNat % 256 ∧ (t.reg VF).toNat = (s.reg y).toNat / 128) ∧
      (x = VF → (t.reg VF).toNat = (if 128 ≤ (s.reg y).toNat then 2 else 0)) ∧
      (∀ r, r ≠ x → r ≠ VF → t.reg r = s.reg r) ∧ t.pc = s.pc + 2 ∧ ChangesOnly [.v, .pc] s t)

/-- R131 (D12, log 1): for EVERY input byte, VX takes rnd AND NN; the model's own step takes the free byte of this draw and
counts it (log 1). -/
def Obligations.RndMasksInputByte : Prop :=
  ∀ (x : Reg) (nn : Byte) (s : State),
    (∀ rnd : Byte, ∃ t, execWithRnd rnd (.rnd x nn) s = .next t ∧ t.reg x = rnd &&& nn ∧
      (∀ r, r ≠ x → t.reg r = s.reg r) ∧ t.pc = s.pc + 2 ∧ ChangesOnly [.v, .pc, .draws] s t) ∧
    (∃ (rnd : Byte) (t : State), exec (.rnd x nn) s = .next t ∧ t.reg x = rnd &&& nn ∧
      (∀ r, r ≠ x → t.reg r = s.reg r) ∧ t.pc = s.pc + 2 ∧ t.draws = s.draws + 1 ∧
      ChangesOnly [.v, .pc, .draws] s t)

/-! ## The index register and memory (42_index_memory.md) -/

/-- R140, R142: I takes the 12-bit address, respectively the address of the glyph of the low nibble of VX. -/
def Obligations.IndexLoads : Prop :=
  ∀ (x : Reg) (nnn : BitVec 12) (s : State),
    (∃ t, exec (.ldI nnn) s = .next t ∧ t.i.toNat = nnn.toNat ∧ t.pc = s.pc + 2 ∧ ChangesOnly [.i, .pc] s t) ∧
    (∃ t, exec (.ldF x) s = .next t ∧ t.i.toNat = (s.reg x).toNat % 16 * 5 ∧ t.pc = s.pc + 2 ∧
      ChangesOnly [.i, .pc] s t)

/-- R141 (D5, log 14): FX1E wraps I modulo 65536, masks nothing, writes no flag and never faults. -/
def Obligations.AddIndexWrapsAtSixteenBits : Prop :=
  ∀ (x : Reg) (s : State),
    ∃ t, exec (.addI x) s = .next t ∧ t.i.toNat = (s.i.toNat + (s.reg x).toNat) % 65536 ∧ t.pc = s.pc + 2 ∧
      ChangesOnly [.i, .pc] s t

/-- R143: FX33 stores hundreds, tens and ones at I, I+1, I+2, the font region not excepted (D7, log 10), and no other byte; I
is unchanged. -/
def Obligations.BcdStoresDigits : Prop :=
  ∀ (x : Reg) (s : State), s.mem.wf s.font = true → s.i.toNat + 2 ≤ 4095 →
    ∃ t, exec (.ldB x) s = .next t ∧
      (t.readByte s.i.toNat).toNat = (s.reg x).toNat / 100 ∧
      (t.readByte (s.i.toNat + 1)).toNat = (s.reg x).toNat / 10 % 10 ∧
      (t.readByte (s.i.toNat + 2)).toNat = (s.reg x).toNat % 10 ∧
      (∀ a, a < s.i.toNat ∨ s.i.toNat + 2 < a → t.readByte a = s.readByte a) ∧
      t.pc = s.pc + 2 ∧ ChangesOnly [.mem, .pc] s t

/-- R144: FX55 stores V0..VX at I..I+X, the font region not excepted (R56, D7, log 10), no other byte, and
moves I past the block. -/
def Obligations.BlockStoreWritesRegisters : Prop :=
  ∀ (x : Reg) (s : State), s.mem.wf s.font = true → s.i.toNat + x.val ≤ 4095 →
    ∃ t, exec (.storeRegs x) s = .next t ∧
      (∀ k : Reg, k ≤ x → t.readByte (s.i.toNat + k.val) = s.reg k) ∧
      (∀ a, a < s.i.toNat ∨ s.i.toNat + x.val < a → t.readByte a = s.readByte a) ∧
      t.i.toNat = s.i.toNat + x.val + 1 ∧ t.pc = s.pc + 2 ∧ ChangesOnly [.mem, .i, .pc] s t

/-- R145: FX65 loads V0..VX from I..I+X, leaves the registers above VX and all of memory, and moves I past the block. -/
def Obligations.BlockLoadReadsRegisters : Prop :=
  ∀ (x : Reg) (s : State), s.i.toNat + x.val ≤ 4095 →
    ∃ t, exec (.loadRegs x) s = .next t ∧
      (∀ k : Reg, k ≤ x → t.reg k = s.readByte (s.i.toNat + k.val)) ∧ (∀ k : Reg, x < k → t.reg k = s.reg k) ∧
      t.i.toNat = s.i.toNat + x.val + 1 ∧ t.pc = s.pc + 2 ∧ ChangesOnly [.v, .i, .pc] s t

/-- The round trip of R145's worked example: after FX55, whatever the registers become, FX65 with the same I and X over the
stored memory restores V0..VX. -/
def Obligations.BlockStoreThenLoadRestores : Prop :=
  ∀ (x : Reg) (s t u : State), s.mem.wf s.font = true → s.i.toNat + x.val ≤ 4095 → exec (.storeRegs x) s = .next t →
    (∀ a, u.readByte a = t.readByte a) → u.i = s.i →
    ∃ w, exec (.loadRegs x) u = .next w ∧ (∀ k : Reg, k ≤ x → w.reg k = s.reg k) ∧ w.i = t.i

/-- R55, R181 (D2, D3, D22; logs 4, 11): a range that leaves memory raises MemOutOfBounds with its lowest offending address, before
anything is read or written; an empty sprite does not. -/
def Obligations.RangeOutsideMemoryFaults : Prop :=
  ∀ (i : Instr) (x y : Reg) (n : BitVec 4) (len : Nat) (s : State),
    (i = .ldB x ∧ len = 3) ∨ (i = .storeRegs x ∧ len = x.val + 1) ∨ (i = .loadRegs x ∧ len = x.val + 1) ∨
      (i = .drw x y n ∧ len = n.toNat) →
    0 < len → 4095 < s.i.toNat + len - 1 →
    ∃ t, exec i s = .next t ∧ t.fault = some (.memOutOfBounds (max s.i.toNat 4096)) ∧ ChangesOnly [.fault] s t

/-- R60: bytes stored over the next instruction are the bytes the next step fetches. -/
def Obligations.StoredBytesAreFetchedNext : Prop :=
  ∀ s : State, s.mem.wf s.font = true → s.i = s.pc + 2 → s.pc.toNat + 3 ≤ 4095 →
    ∃ t, exec (.storeRegs 1) s = .next t ∧ t.fetchWord = wordOfBytes (s.reg 0) (s.reg 1)

/-! ## Display (43_display.md) -/

/-- R150: CLS clears every cell and sets DRAW, whatever was there; VF is not written. -/
def Obligations.ClsClearsAllCells : Prop :=
  ∀ s : State,
    ∃ t, exec .cls s = .next t ∧ (∀ p, t.fb.lit p = false) ∧ t.draw = true ∧ t.pc = s.pc + 2 ∧
      ChangesOnly [.fb, .draw, .pc] s t

/-- R151, R152: the draw loop is the XOR of the sprite's picture onto the framebuffer. A pixel changes exactly when a set bit
falls on it, VF is 1 exactly when a set bit falls on a pixel that was 1, DRAW is set, I and memory stay. The range is checked
first (D22, log 11); the bit order is D10 (log 7); VX and VY are those before the step, also for X or Y = 15 (D9, log 6). -/
def Obligations.DrwIsXorOfSpritePicture : Prop :=
  ∀ (x y : Reg) (n : BitVec 4) (s : State), n.toNat = 0 ∨ s.i.toNat + n.toNat - 1 ≤ 4095 →
    ∃ t, exec (.drw x y n) s = .next t ∧
      (∀ p, t.fb.lit p ≠ s.fb.lit p ↔ Covered s x y n p) ∧
      ((∃ p, Covered s x y n p ∧ s.fb.lit p = true) → t.reg VF = 1) ∧
      ((∀ p, Covered s x y n p → s.fb.lit p = false) → t.reg VF = 0) ∧
      (∀ r, r ≠ VF → t.reg r = s.reg r) ∧ t.draw = true ∧ t.pc = s.pc + 2 ∧
      ChangesOnly [.v, .fb, .draw, .pc] s t

/-- R151's worked example: the same sprite drawn twice at the same place restores the framebuffer, and where the first draw
met no lit pixel and touched some, the second reports the collision. With X or Y = 15 the place is the same when the first
draw left VF as it was (D9, log 6). Which pixels a sprite touches rests on the bit order D10 (log 7, PRESUMED). -/
def Obligations.DrawingTwiceRestores : Prop :=
  ∀ (x y : Reg) (n : BitVec 4) (s t u : State), n.toNat = 0 ∨ s.i.toNat + n.toNat - 1 ≤ 4095 →
    exec (.drw x y n) s = .next t → exec (.drw x y n) t = .next u → (x = VF ∨ y = VF → t.reg VF = s.reg VF) →
    u.fb = s.fb ∧ ((∃ p, Covered s x y n p) → (∀ p, Covered s x y n p → s.fb.lit p = false) → u.reg VF = 1)

/-- R153: ack_redraw clears DRAW and nothing else, in every state, faulted or not (D23, D25; logs 4, 21). -/
def Obligations.AckRedrawClearsFlag : Prop :=
  ∀ s : State, s.ackRedraw.draw = false ∧ ChangesOnly [.draw] s s.ackRedraw

/-! ## Keypad (44_keypad.md) -/

/-- R161, R162, R165: SKP and SKNP test the level of key VX in the current snapshot; VX > 15 raises KeyIndexOutOfBounds
(D13, log 20). -/
def Obligations.KeySkipsTestLevel : Prop :=
  ∀ (x : Reg) (s : State),
    ((s.reg x).toNat ≤ 15 →
      (∃ t, exec (.skp x) s = .next t ∧
        t.pc = (if s.keys.getLsbD (s.reg x).toNat then s.pc + 4 else s.pc + 2) ∧ ChangesOnly [.pc] s t) ∧
      (∃ t, exec (.sknp x) s = .next t ∧
        t.pc = (if s.keys.getLsbD (s.reg x).toNat then s.pc + 2 else s.pc + 4) ∧ ChangesOnly [.pc] s t)) ∧
    (15 < (s.reg x).toNat → ∀ i, i = .skp x ∨ i = .sknp x →
      ∃ t, exec i s = .next t ∧ t.fault = some (.keyIndexOutOfBounds (s.reg x)) ∧ ChangesOnly [.fault] s t)

/-- R163: the lowest key up now and down in the preceding frame goes to VX and PC advances (D14, log 8); with no such key
nothing changes at all. -/
def Obligations.KeyWaitTakesLowestReleasedKey : Prop :=
  ∀ (x : Reg) (s : State),
    (∀ k < 16, s.keys.getLsbD k = false → s.prev.getLsbD k = true →
      (∀ j < k, ¬(s.keys.getLsbD j = false ∧ s.prev.getLsbD j = true)) →
      ∃ t, exec (.ldVxK x) s = .next t ∧ (t.reg x).toNat = k ∧ (∀ r, r ≠ x → t.reg r = s.reg r) ∧ t.pc = s.pc + 2 ∧
        ChangesOnly [.v, .pc] s t) ∧
    ((∀ k < 16, ¬(s.keys.getLsbD k = false ∧ s.prev.getLsbD k = true)) → exec (.ldVxK x) s = .next s)

/-- R163, R164: while armed with no release edge captured, any number of steps leaves the whole state unchanged. -/
def Obligations.ArmedKeyWaitStays : Prop :=
  ∀ (x : Reg) (s : State) (n : Nat), s.Armed x → (∀ k < 16, ¬(s.keys.getLsbD k = false ∧ s.prev.getLsbD k = true)) →
    Host.Core.run core n s = .next s

/-- R160 (D17, log 24): capture moves KEYS to PREV and the sample to KEYS, and touches nothing else; two captures of one sample
leave no release edge, and FX0A then waits (R203). -/
def Obligations.CaptureShiftsSnapshots : Prop :=
  ∀ (s : State) (keyIn : BitVec 16),
    (s.capture keyIn).keys = keyIn ∧ (s.capture keyIn).prev = s.keys ∧ ChangesOnly [.keys, .prev] s (s.capture keyIn) ∧
    ∀ x, exec (.ldVxK x) ((s.capture keyIn).capture keyIn) = .next ((s.capture keyIn).capture keyIn)

/-! ## Timers (45_timers.md) -/

/-- R170, R171, R172: the three timer moves; FX07 does not change DT. That FX18 does not write BEEP rests on the spec's
decision that BEEP is a register (D16, log 12). -/
def Obligations.TimerMoves : Prop :=
  ∀ (x : Reg) (s : State),
    (∃ t, exec (.ldVxDt x) s = .next t ∧ t.reg x = s.dt ∧ (∀ r, r ≠ x → t.reg r = s.reg r) ∧ t.pc = s.pc + 2 ∧
      ChangesOnly [.v, .pc] s t) ∧
    (∃ t, exec (.ldDtVx x) s = .next t ∧ t.dt = s.reg x ∧ t.pc = s.pc + 2 ∧ ChangesOnly [.dt, .pc] s t) ∧
    (∃ t, exec (.ldStVx x) s = .next t ∧ t.st = s.reg x ∧ t.pc = s.pc + 2 ∧ ChangesOnly [.st, .pc] s t)

/-- R173: tick stores in BEEP (a register by D16, log 12) whether ST was nonzero, and counts both timers down by 1, never
below 0, faulted or not (D25, log 4). -/
def Obligations.TickCountsDown : Prop :=
  ∀ s : State,
    (s.tick.beep = true ↔ 0 < s.st.toNat) ∧ s.tick.dt.toNat = s.dt.toNat - 1 ∧ s.tick.st.toNat = s.st.toNat - 1 ∧
    ChangesOnly [.dt, .st, .beep] s s.tick

/-- R174 (D16, log 12): with ST = n, BEEP is 1 after each of the next n ticks and 0 after every later one. -/
def Obligations.BeepLastsAsManyTicksAsSoundTimer : Prop :=
  ∀ (s : State) (k : Nat), (State.tick^[k + 1] s).beep = decide (k < s.st.toNat)

/-! ## Reset, load, the boundary and the invariant (70_reset_and_hazards.md, 10_state.md) -/

/-- R37, R38, R200: the state after reset, element by element, from any state and so for EVERY value of the parameter FONT,
which reset leaves as it is (BEEP by D16, FAULT by D2: log 18; no font byte's value is used: D11, log 2). -/
def Obligations.ResetState : Prop :=
  (∀ s t : State, t = s.resetAgain →
    (∀ r, t.reg r = 0) ∧ t.i = 0 ∧ t.pc.toNat = 512 ∧ (∀ k : Fin 16, t.stack[k] = 0) ∧ t.sp = 0 ∧
    (∀ a : Fin 80, t.readByte a.val = s.font[a]) ∧ (∀ a, 80 ≤ a → t.readByte a = 0) ∧ (∀ p, t.fb.lit p = false) ∧
    t.draw = false ∧ t.dt = 0 ∧ t.st = 0 ∧ t.keys = 0 ∧ t.prev = 0 ∧ t.beep = false ∧ t.fault = none ∧
    t.font = s.font) ∧
  ∀ font : Config.Font, (State.resetWith font).font = font ∧
    (State.resetWith font).resetAgain = State.resetWith font

/-- R201 (D21, log 13): up to 3584 bytes are copied to 512 upwards and nothing else changes; a longer program changes nothing and
failure is reported. -/
def Obligations.LoadCopiesOrRejects : Prop :=
  ∀ (s : State) (bytes : List Byte), s.mem.wf s.font = true →
    (bytes.length ≤ 3584 → (s.load bytes).1 = true ∧
      (∀ k (h : k < bytes.length), (s.load bytes).2.readByte (512 + k) = bytes[k]) ∧
      (∀ a, a < 512 ∨ 512 + bytes.length ≤ a → (s.load bytes).2.readByte a = s.readByte a) ∧
      ChangesOnly [.mem] s (s.load bytes).2) ∧
    (3584 < bytes.length → s.load bytes = (false, s))

/-- The model's invariant holds at reset, with the default font and with every other: the return addresses in use and PC stay
in the ranges of R40, and memory is in the canonical form, which is the model's own clause (log 22, DESIGN CHOICE). -/
def Obligations.ResetSatisfiesInvariant : Prop := State.reset.Inv ∧ ∀ font : Config.Font, (State.resetWith font).Inv

/-- Every step from a state with the invariant, reachable or not, ends in a state with it. Two clauses are R40's: every return
address in use was a fetched PC, and PC is at most 0x10FE. The third, that memory keeps its canonical form inside 0..4095, is
the model's own (log 22, DESIGN CHOICE). -/
def Obligations.StepKeepsInvariant : Prop := ∀ s t : State, s.Inv → step s = .next t → t.Inv

/-- R8, R40: every boundary operation that the driver performs keeps the invariant, with any input. The driver
performs the operations in any order but for a load outside its window, which it refuses (log 13, DESIGN CHOICE). The
invariant's memory clause is the model's own (log 22, DESIGN CHOICE). -/
def Obligations.BoundaryKeepsInvariant : Prop :=
  ∀ (op : BoundaryOp) (a b : Session), a.state.Inv → a.apply op = .next b → b.state.Inv
end

