-- ==== Sys2Proof/Laws/Decode.lean ====
section
/-! SUPPORT. The bits and the fields of an encoded word, format by format (spec/30_encoding.md R71, R72), and the two
bytes of a word put together again (spec/20_memory.md R52). -/

namespace Sys2Proof

variable (f n : BitVec 4) (x y : Reg) (nn : Byte) (nnn : BitVec 12) (w : Word) (k : Nat)

/-! ### Bits -/

theorem encodeAddr_bit :
    (encodeAddr f nnn).getLsbD k = if k < 12 then nnn.getLsbD k else f.getLsbD (k - 12) := BitVec.getLsbD_append

/-- The high byte of formats REGIMM and REGREG. -/
theorem familyX_bit (a b : BitVec 4) :
    (show Byte from a ++ b).getLsbD k = if k < 4 then b.getLsbD k else a.getLsbD (k - 4) := BitVec.getLsbD_append

theorem encodeRegImm_bit :
    (encodeRegImm f x nn).getLsbD k =
      if k < 8 then nn.getLsbD k else (show Byte from f ++ regNibble x).getLsbD (k - 8) := BitVec.getLsbD_append

theorem encodeRegReg_bit :
    (encodeRegReg f x y n).getLsbD k =
      if k < 8 then (show Byte from regNibble y ++ n).getLsbD k
      else (show Byte from f ++ regNibble x).getLsbD (k - 8) := BitVec.getLsbD_append

theorem wordOfBytes_bit (hi lo : Byte) :
    (wordOfBytes hi lo).getLsbD k = if k < 8 then lo.getLsbD k else hi.getLsbD (k - 8) := BitVec.getLsbD_append

/-! ### Fields -/

@[simp] theorem fieldFamily_encodeAddr : fieldFamily (encodeAddr f nnn) = f := by
  ext k hk
  simp [fieldFamily, encodeAddr_bit, BitVec.getLsbD_eq_getElem hk]

@[simp] theorem fieldNNN_encodeAddr : fieldNNN (encodeAddr f nnn) = nnn := by
  ext k hk
  simp [fieldNNN, encodeAddr_bit, hk]

@[simp] theorem fieldFamily_encodeRegImm : fieldFamily (encodeRegImm f x nn) = f := by
  ext k hk
  have h1 : ¬12 + k < 8 := by omega
  have h2 : ¬12 + k - 8 < 4 := by omega
  have h3 : 12 + k - 8 - 4 = k := by omega
  simp only [fieldFamily, BitVec.getElem_extractLsb', encodeRegImm_bit, familyX_bit, h1, h2, h3, if_false,
    BitVec.getLsbD_eq_getElem hk]

/-- The register number read from four bits equal to it. -/
theorem toFin_regNibble {b : BitVec 4} (h : b = regNibble x) : b.toFin = x := by
  rw [h]
  rfl

@[simp] theorem fieldX_encodeRegImm : fieldX (encodeRegImm f x nn) = x := by
  apply toFin_regNibble
  ext k hk
  have h1 : ¬8 + k < 8 := by omega
  have h2 : 8 + k - 8 = k := by omega
  simp only [BitVec.getElem_extractLsb', encodeRegImm_bit, familyX_bit, h1, h2, hk, if_false, if_true,
    BitVec.getLsbD_eq_getElem hk]

@[simp] theorem fieldNN_encodeRegImm : fieldNN (encodeRegImm f x nn) = nn := by
  ext k hk
  simp [fieldNN, encodeRegImm_bit, hk]

@[simp] theorem fieldFamily_encodeRegReg : fieldFamily (encodeRegReg f x y n) = f := by
  ext k hk
  have h1 : ¬12 + k < 8 := by omega
  have h2 : ¬12 + k - 8 < 4 := by omega
  have h3 : 12 + k - 8 - 4 = k := by omega
  simp only [fieldFamily, BitVec.getElem_extractLsb', encodeRegReg_bit, familyX_bit, h1, h2, h3, if_false,
    BitVec.getLsbD_eq_getElem hk]

@[simp] theorem fieldX_encodeRegReg : fieldX (encodeRegReg f x y n) = x := by
  apply toFin_regNibble
  ext k hk
  have h1 : ¬8 + k < 8 := by omega
  have h2 : 8 + k - 8 = k := by omega
  simp only [BitVec.getElem_extractLsb', encodeRegReg_bit, familyX_bit, h1, h2, hk, if_false, if_true,
    BitVec.getLsbD_eq_getElem hk]

@[simp] theorem fieldY_encodeRegReg : fieldY (encodeRegReg f x y n) = y := by
  apply toFin_regNibble
  ext k hk
  have h1 : 4 + k < 8 := by omega
  have h2 : ¬4 + k < 4 := by omega
  have h3 : 4 + k - 4 = k := by omega
  simp only [BitVec.getElem_extractLsb', encodeRegReg_bit, familyX_bit, h1, h2, h3, if_false, if_true,
    BitVec.getLsbD_eq_getElem hk]

@[simp] theorem fieldN_encodeRegReg : fieldN (encodeRegReg f x y n) = n := by
  ext k hk
  have h1 : k < 8 := by omega
  simp only [fieldN, BitVec.getElem_extractLsb', encodeRegReg_bit, familyX_bit, h1, hk, if_true, Nat.zero_add,
    BitVec.getLsbD_eq_getElem hk]

/-! ### Masks of the opcode map (R75) -/

/-- The mask 0xF000 keeps the family. -/
theorem mask_family (w : Word) : w &&& 0xF000#16 = encodeAddr (fieldFamily w) 0 := by
  apply BitVec.eq_of_getLsbD_eq
  intro k hk
  rw [encodeAddr_bit]
  interval_cases k <;> simp [fieldFamily]

/-- The mask 0xF00F keeps the family and the last nibble. -/
theorem mask_familyN (w : Word) : w &&& 0xF00F#16 = encodeRegReg (fieldFamily w) 0 0 (fieldN w) := by
  apply BitVec.eq_of_getLsbD_eq
  intro k hk
  rw [encodeRegReg_bit, familyX_bit, familyX_bit]
  interval_cases k <;> simp [fieldFamily, fieldN, regNibble]

/-- The mask 0xF0FF keeps the family and the low byte. -/
theorem mask_familyNN (w : Word) : w &&& 0xF0FF#16 = encodeRegImm (fieldFamily w) 0 (fieldNN w) := by
  apply BitVec.eq_of_getLsbD_eq
  intro k hk
  rw [encodeRegImm_bit, familyX_bit]
  interval_cases k <;> simp [fieldFamily, fieldNN, regNibble]

/-- A row with the mask 0xFFFF selects one word. -/
theorem OpcodeRow.selects_word (r : OpcodeRow) (w : Word) (hm : r.mask = 0xFFFF#16) : r.selects w = (w == r.bits) := by
  have all : w &&& 0xFFFF#16 = w := by
    apply BitVec.eq_of_getLsbD_eq
    intro k hk
    interval_cases k <;> simp
  rw [OpcodeRow.selects, hm, all]

/-- A row with the mask 0xF000 selects by the family. -/
theorem OpcodeRow.selects_family (r : OpcodeRow) (w : Word) (hm : r.mask = 0xF000#16) (hb : r.bits = encodeAddr f 0) :
    r.selects w = (fieldFamily w == f) := by
  rw [Bool.eq_iff_iff, OpcodeRow.selects, hm, hb, mask_family, beq_iff_eq, beq_iff_eq]
  exact ⟨fun h => by simpa using congrArg fieldFamily h, fun h => by rw [h]⟩

/-- A row with the mask 0xF00F selects by the family and the last nibble. -/
theorem OpcodeRow.selects_familyN (r : OpcodeRow) (w : Word) (hm : r.mask = 0xF00F#16)
    (hb : r.bits = encodeRegReg f 0 0 n) : r.selects w = (fieldFamily w == f && fieldN w == n) := by
  rw [Bool.eq_iff_iff, OpcodeRow.selects, hm, hb, mask_familyN, Bool.and_eq_true, beq_iff_eq, beq_iff_eq, beq_iff_eq]
  exact ⟨fun h => ⟨by simpa using congrArg fieldFamily h, by simpa using congrArg fieldN h⟩, fun h => by rw [h.1, h.2]⟩

/-- A row with the mask 0xF0FF selects by the family and the low byte. -/
theorem OpcodeRow.selects_familyNN (r : OpcodeRow) (w : Word) (hm : r.mask = 0xF0FF#16)
    (hb : r.bits = encodeRegImm f 0 nn) : r.selects w = (fieldFamily w == f && fieldNN w == nn) := by
  rw [Bool.eq_iff_iff, OpcodeRow.selects, hm, hb, mask_familyNN, Bool.and_eq_true, beq_iff_eq, beq_iff_eq, beq_iff_eq]
  exact ⟨fun h => ⟨by simpa using congrArg fieldFamily h, by simpa using congrArg fieldNN h⟩, fun h => by rw [h.1, h.2]⟩

/-! ### Bytes -/

/-- The two bytes of a word, high byte first, are the word (R52). -/
@[simp] theorem wordOfBytes_bytes : wordOfBytes (highByte w) (lowByte w) = w := by
  apply BitVec.eq_of_getLsbD_eq
  intro k hk
  rw [wordOfBytes_bit]
  by_cases h : k < 8
  · simp [lowByte, h]
  · have h2 : k - 8 < 8 := by omega
    have h3 : 8 + (k - 8) = k := by omega
    simp [highByte, h, h2, h3]

end Sys2Proof
end

