-- ==== Sys2Proof/Laws/Framebuffer.lean ====
section
/-! SUPPORT. Reading the framebuffer after a toggle or a clear, and that framebuffers with the same cells are equal
(spec/10_state.md R28). -/

namespace Sys2Proof.Machine

/-- A toggle flips its own cell and leaves every other cell alone. -/
theorem Framebuffer.lit_toggle (fb : Framebuffer) (p q : Pixel) :
    (fb.toggle p).lit q = (fb.lit q ^^ decide (p = q)) := by
  obtain ⟨px, py⟩ := p
  obtain ⟨qx, qy⟩ := q
  by_cases hy : py = qy
  · subst hy
    simp [Framebuffer.lit, Framebuffer.toggle, Fin.ext_iff, eq_comm]
  · have hy' : py.val ≠ qy.val := fun h => hy (Fin.ext h)
    simp [Framebuffer.lit, Framebuffer.toggle, hy, hy']

/-- Every cell of a cleared framebuffer is 0. -/
@[simp] theorem Framebuffer.lit_clear (p : Pixel) : Framebuffer.clear.lit p = false := by
  simp [Framebuffer.lit, Framebuffer.clear]

/-- Framebuffers with the same cells are equal. -/
theorem Framebuffer.ext_of_lit {f g : Framebuffer} (h : ∀ p, f.lit p = g.lit p) : f = g := by
  apply Vector.ext
  intro y hy
  apply BitVec.eq_of_getLsbD_eq
  intro x hx
  exact h ⟨⟨x, hx⟩, ⟨y, hy⟩⟩

/-- The coordinates of a cell's index are the cell. -/
@[simp] theorem Pixel.ofCell_cell (p : Pixel) (h : p.cell < 2048) : Pixel.ofCell ⟨p.cell, h⟩ = p := by
  obtain ⟨⟨x, hx⟩, ⟨y, hy⟩⟩ := p
  simp only [Pixel.ofCell, Pixel.cell, Pixel.mk.injEq, Fin.mk.injEq]
  omega

end Sys2Proof.Machine
end

