-- ==== Sys2Proof/Laws/Memory.lean ====
section
/-! SUPPORT. The laws of memory: a read after a write, the canonical form kept by every operation, and that canonical
memories with the same contents are equal (spec/20_memory.md R57, R58). -/

namespace Sys2Proof.Machine

variable {font : Config.Font}

/-- The reset contents are the font at 0..79 (R37, R38). -/
@[simp] theorem resetByte_font (a : Fin 80) : resetByte font a.val = font[a] :=
  dif_pos a.isLt

/-- The reset contents are 0 from 80 up (R37). -/
theorem resetByte_above {a : Nat} (ha : 80 ≤ a) : resetByte font a = 0 :=
  dif_neg (Nat.not_lt.2 ha)

/-- Nothing is listed below the bound of a canonical form, so such an address reads as its reset contents. -/
theorem Memory.read_below {lo a : Nat} {m : Memory} (h : Memory.wfFrom font lo m = true) (ha : a < lo) :
    m.read font a = resetByte font a := by
  induction m generalizing lo with
  | nil => rfl
  | cons e m ih =>
    obtain ⟨b, v⟩ := e
    simp only [Memory.wfFrom, Bool.and_eq_true, decide_eq_true_eq] at h
    have hne : a ≠ b := by omega
    simp only [Memory.read, hne, if_false]
    exact ih h.2 (by omega)

/-- A write reads back and leaves every other address alone. -/
theorem Memory.read_write_from {lo : Nat} {m : Memory} (h : Memory.wfFrom font lo m = true) (a : Nat) (v : Byte) (c : Nat) :
    (m.write font a v).read font c = if c = a then v else m.read font c := by
  induction m generalizing lo with
  | nil =>
    unfold Memory.write
    split
    · rename_i hv
      by_cases hc : c = a <;> simp [Memory.read, hc, hv]
    · by_cases hc : c = a <;> simp [Memory.read, hc]
  | cons e m ih =>
    obtain ⟨b, u⟩ := e
    have hw := h
    simp only [Memory.wfFrom, Bool.and_eq_true, decide_eq_true_eq] at h
    unfold Memory.write
    by_cases hab : a < b
    · by_cases hv : v = resetByte font a
      · have hlow : Memory.wfFrom font b ((b, u) :: m) = true := by simp [Memory.wfFrom, h.1.1.2, h.1.2, h.2]
        simp only [hab, hv, if_true]
        by_cases hc : c = a
        · subst hc
          simp [Memory.read_below hlow hab]
        · simp [hc]
      · simp [hab, hv, Memory.read]
    · by_cases hb : a = b
      · subst hb
        by_cases hv : v = resetByte font a
        · simp only [hv, if_true, Nat.lt_irrefl, if_false]
          by_cases hc : c = a
          · subst hc
            simp [Memory.read_below h.2 (Nat.lt_succ_self c)]
          · simp [hc, Memory.read]
        · simp only [hv, if_true, Nat.lt_irrefl, if_false, Memory.read]
          by_cases hc : c = a <;> simp [hc]
      · simp only [hab, hb, if_false, Memory.read]
        by_cases hc : c = b
        · have : c ≠ a := by omega
          simp [hc, Ne.symm hb]
        · simp [hc, ih h.2]

/-- A write reads back and leaves every other address alone (canonical memory). -/
theorem Memory.read_write {m : Memory} (h : m.wf font = true) (a : Nat) (v : Byte) (c : Nat) :
    (m.write font a v).read font c = if c = a then v else m.read font c := Memory.read_write_from h a v c

/-- A canonical form from a higher bound is one from a lower bound. -/
theorem Memory.wfFrom_mono {lo hi : Nat} {m : Memory} (hle : lo ≤ hi) (h : Memory.wfFrom font hi m = true) :
    Memory.wfFrom font lo m = true := by
  cases m with
  | nil => rfl
  | cons e m =>
    obtain ⟨b, u⟩ := e
    simp only [Memory.wfFrom, Bool.and_eq_true, decide_eq_true_eq] at h ⊢
    exact ⟨⟨⟨by omega, h.1.1.2⟩, h.1.2⟩, h.2⟩

/-- A write inside the address space keeps the canonical form. -/
theorem Memory.wfFrom_write {lo : Nat} {m : Memory} (h : Memory.wfFrom font lo m = true) {a : Nat} (v : Byte) (hlo : lo ≤ a)
    (ha : a < Config.memSize) : Memory.wfFrom font lo (m.write font a v) = true := by
  induction m generalizing lo with
  | nil =>
    unfold Memory.write
    split
    · rfl
    · rename_i hv
      simp [Memory.wfFrom, hlo, ha, hv]
  | cons e m ih =>
    obtain ⟨b, u⟩ := e
    have hw := h
    simp only [Memory.wfFrom, Bool.and_eq_true, decide_eq_true_eq] at h
    obtain ⟨⟨⟨h1, h2⟩, h3⟩, h4⟩ := h
    unfold Memory.write
    by_cases hab : a < b
    · by_cases hv : v = resetByte font a
      · simpa [hab, hv] using hw
      · simp [hab, hv, Memory.wfFrom, hlo, ha, h2, h3, h4, Nat.succ_le_of_lt hab]
    · by_cases hb : a = b
      · subst hb
        by_cases hv : v = resetByte font a
        · simp only [hv, if_true, Nat.lt_irrefl, if_false]
          exact Memory.wfFrom_mono (by omega) h4
        · simp [hv, Memory.wfFrom, h1, h2, h4]
      · simp only [hab, hb, if_false, Memory.wfFrom, h1, h2, h3, decide_true, Bool.true_and, ne_eq, not_false_eq_true]
        exact ih h4 (by omega)

/-- A write inside the address space keeps the canonical form. -/
theorem Memory.wf_write {m : Memory} (h : m.wf font = true) {a : Nat} (v : Byte) (ha : a < Config.memSize) :
    (m.write font a v).wf font = true := Memory.wfFrom_write h v (Nat.zero_le a) ha

/-- A block stored inside the address space keeps the canonical form. -/
theorem Memory.wf_writeList {m : Memory} (h : m.wf font = true) {a : Nat} {bs : List Byte}
    (ha : bs = [] ∨ a + bs.length ≤ Config.memSize) : (m.writeList font a bs).wf font = true := by
  induction bs generalizing m a with
  | nil => exact h
  | cons b bs ih =>
    have hlen : a + (bs.length + 1) ≤ Config.memSize := by simpa using ha
    exact ih (Memory.wf_write h b (by omega)) (Or.inr (by omega))

/-- What a read finds after a block is stored at ascending addresses: the block's byte, or what was there. -/
theorem Memory.read_writeList {m : Memory} (h : m.wf font = true) {a : Nat} {bs : List Byte}
    (ha : bs = [] ∨ a + bs.length ≤ Config.memSize) (c : Nat) :
    (m.writeList font a bs).read font c = if a ≤ c ∧ c < a + bs.length then bs.getD (c - a) 0 else m.read font c := by
  induction bs generalizing m a with
  | nil => simp [Memory.writeList]
  | cons b bs ih =>
    have hlen : a + (bs.length + 1) ≤ Config.memSize := by simpa using ha
    have hwf := Memory.wf_write h b (show a < Config.memSize by omega)
    rw [Memory.writeList, ih hwf (Or.inr (by omega)), Memory.read_write h]
    by_cases hc : c = a
    · subst hc
      simp
    · by_cases hin : a + 1 ≤ c ∧ c < a + 1 + bs.length
      · have hin' : a ≤ c ∧ c < a + (b :: bs).length := by simp; omega
        obtain ⟨k, hk⟩ : ∃ k, c - a = k + 1 := ⟨c - a - 1, by omega⟩
        have hk' : c - (a + 1) = k := by omega
        simp only [hin, hin', and_self, if_true, hk, hk', List.getD_cons_succ]
      · have hout : ¬(a ≤ c ∧ c < a + (b :: bs).length) := by simp; omega
        simp only [hin, hout, if_false, hc]

/-- A block read has the asked-for length. -/
@[simp] theorem Memory.length_readList (m : Memory) (a n : Nat) : (m.readList font a n).length = n := by
  induction n generalizing a with
  | zero => rfl
  | succ n ih => simp [Memory.readList, ih]

/-- The k-th byte of a block read is the byte at `a + k`. -/
theorem Memory.getElem_readList (m : Memory) (a n k : Nat) (hk : k < (m.readList font a n).length) :
    (m.readList font a n)[k] = m.read font (a + k) := by
  induction n generalizing a k with
  | zero => simp at hk
  | succ n ih =>
    cases k with
    | zero => simp [Memory.readList]
    | succ k =>
      simp only [Memory.readList, List.getElem_cons_succ]
      rw [ih]
      congr 1
      omega

/-- Canonical memories that read alike are equal lists. -/
theorem Memory.ext_from {lo : Nat} {m n : Memory} (hm : Memory.wfFrom font lo m = true) (hn : Memory.wfFrom font lo n = true)
    (h : ∀ a, m.read font a = n.read font a) : m = n := by
  induction m generalizing lo n with
  | nil =>
    cases n with
    | nil => rfl
    | cons e n =>
      obtain ⟨b, u⟩ := e
      simp only [Memory.wfFrom, Bool.and_eq_true, decide_eq_true_eq] at hn
      exact absurd (by simpa [Memory.read] using (h b).symm) hn.1.2
  | cons e m ih =>
    obtain ⟨b, u⟩ := e
    have hm' := hm
    simp only [Memory.wfFrom, Bool.and_eq_true, decide_eq_true_eq] at hm
    cases n with
    | nil => exact absurd (by simpa [Memory.read] using h b) hm.1.2
    | cons f n =>
      obtain ⟨c, w⟩ := f
      have hn' := hn
      simp only [Memory.wfFrom, Bool.and_eq_true, decide_eq_true_eq] at hn
      have hbc : b = c := by
        rcases Nat.lt_trichotomy b c with hlt | heq | hgt
        · have hlow : Memory.wfFrom font c ((c, w) :: n) = true := by simp [Memory.wfFrom, hn.1.1.2, hn.1.2, hn.2]
          have hb := h b
          rw [Memory.read_below hlow hlt] at hb
          exact absurd (by simpa [Memory.read] using hb) hm.1.2
        · exact heq
        · have hlow : Memory.wfFrom font b ((b, u) :: m) = true := by simp [Memory.wfFrom, hm.1.1.2, hm.1.2, hm.2]
          have hc := h c
          rw [Memory.read_below hlow hgt] at hc
          exact absurd (by simpa [Memory.read] using hc.symm) hn.1.2
      subst hbc
      have huw : u = w := by simpa [Memory.read] using h b
      subst huw
      rw [ih hm.2 hn.2 fun a => ?_]
      by_cases hab : a = b
      · subst hab
        rw [Memory.read_below hm.2 (Nat.lt_succ_self a), Memory.read_below hn.2 (Nat.lt_succ_self a)]
      · simpa [Memory.read, hab] using h a

/-- Canonical memories that read alike are equal data. -/
theorem Memory.ext_of_read {m n : Memory} (hm : m.wf font = true) (hn : n.wf font = true) (h : ∀ a, m.read font a = n.read font a) :
    m = n := Memory.ext_from hm hn h

end Sys2Proof.Machine
end

