-- ==== Sys2Proof/Laws/State.lean ====
section
/-! SUPPORT. One lemma per field per update of the state, true by rfl, so that no later proof unfolds a record update;
and what reading a register or a byte gives after an update of something else. -/

namespace Sys2Proof.Machine

variable (s : State)


/-! ### setReg -/

@[simp] theorem State.setReg_v (r : Reg) (b : Byte) : (s.setReg r b).v = s.v.set r b := rfl
@[simp] theorem State.setReg_i (r : Reg) (b : Byte) : (s.setReg r b).i = s.i := rfl
@[simp] theorem State.setReg_pc (r : Reg) (b : Byte) : (s.setReg r b).pc = s.pc := rfl
@[simp] theorem State.setReg_stack (r : Reg) (b : Byte) : (s.setReg r b).stack = s.stack := rfl
@[simp] theorem State.setReg_sp (r : Reg) (b : Byte) : (s.setReg r b).sp = s.sp := rfl
@[simp] theorem State.setReg_mem (r : Reg) (b : Byte) : (s.setReg r b).mem = s.mem := rfl
@[simp] theorem State.setReg_fb (r : Reg) (b : Byte) : (s.setReg r b).fb = s.fb := rfl
@[simp] theorem State.setReg_draw (r : Reg) (b : Byte) : (s.setReg r b).draw = s.draw := rfl
@[simp] theorem State.setReg_dt (r : Reg) (b : Byte) : (s.setReg r b).dt = s.dt := rfl
@[simp] theorem State.setReg_st (r : Reg) (b : Byte) : (s.setReg r b).st = s.st := rfl
@[simp] theorem State.setReg_keys (r : Reg) (b : Byte) : (s.setReg r b).keys = s.keys := rfl
@[simp] theorem State.setReg_prev (r : Reg) (b : Byte) : (s.setReg r b).prev = s.prev := rfl
@[simp] theorem State.setReg_beep (r : Reg) (b : Byte) : (s.setReg r b).beep = s.beep := rfl
@[simp] theorem State.setReg_fault (r : Reg) (b : Byte) : (s.setReg r b).fault = s.fault := rfl
@[simp] theorem State.setReg_draws (r : Reg) (b : Byte) : (s.setReg r b).draws = s.draws := rfl
@[simp] theorem State.setReg_font (r : Reg) (b : Byte) : (s.setReg r b).font = s.font := rfl
@[simp] theorem State.setReg_readByte (r : Reg) (b : Byte) (a : Nat) : (s.setReg r b).readByte a = s.readByte a := rfl

/-! ### setI -/

@[simp] theorem State.setI_v (t : Word) : (s.setI t).v = s.v := rfl
@[simp] theorem State.setI_i (t : Word) : (s.setI t).i = t := rfl
@[simp] theorem State.setI_pc (t : Word) : (s.setI t).pc = s.pc := rfl
@[simp] theorem State.setI_stack (t : Word) : (s.setI t).stack = s.stack := rfl
@[simp] theorem State.setI_sp (t : Word) : (s.setI t).sp = s.sp := rfl
@[simp] theorem State.setI_mem (t : Word) : (s.setI t).mem = s.mem := rfl
@[simp] theorem State.setI_fb (t : Word) : (s.setI t).fb = s.fb := rfl
@[simp] theorem State.setI_draw (t : Word) : (s.setI t).draw = s.draw := rfl
@[simp] theorem State.setI_dt (t : Word) : (s.setI t).dt = s.dt := rfl
@[simp] theorem State.setI_st (t : Word) : (s.setI t).st = s.st := rfl
@[simp] theorem State.setI_keys (t : Word) : (s.setI t).keys = s.keys := rfl
@[simp] theorem State.setI_prev (t : Word) : (s.setI t).prev = s.prev := rfl
@[simp] theorem State.setI_beep (t : Word) : (s.setI t).beep = s.beep := rfl
@[simp] theorem State.setI_fault (t : Word) : (s.setI t).fault = s.fault := rfl
@[simp] theorem State.setI_draws (t : Word) : (s.setI t).draws = s.draws := rfl
@[simp] theorem State.setI_font (t : Word) : (s.setI t).font = s.font := rfl
@[simp] theorem State.setI_reg (t : Word) (q : Reg) : (s.setI t).reg q = s.reg q := rfl
@[simp] theorem State.setI_readByte (t : Word) (a : Nat) : (s.setI t).readByte a = s.readByte a := rfl

/-! ### setPc -/

@[simp] theorem State.setPc_v (t : Word) : (s.setPc t).v = s.v := rfl
@[simp] theorem State.setPc_i (t : Word) : (s.setPc t).i = s.i := rfl
@[simp] theorem State.setPc_pc (t : Word) : (s.setPc t).pc = t := rfl
@[simp] theorem State.setPc_stack (t : Word) : (s.setPc t).stack = s.stack := rfl
@[simp] theorem State.setPc_sp (t : Word) : (s.setPc t).sp = s.sp := rfl
@[simp] theorem State.setPc_mem (t : Word) : (s.setPc t).mem = s.mem := rfl
@[simp] theorem State.setPc_fb (t : Word) : (s.setPc t).fb = s.fb := rfl
@[simp] theorem State.setPc_draw (t : Word) : (s.setPc t).draw = s.draw := rfl
@[simp] theorem State.setPc_dt (t : Word) : (s.setPc t).dt = s.dt := rfl
@[simp] theorem State.setPc_st (t : Word) : (s.setPc t).st = s.st := rfl
@[simp] theorem State.setPc_keys (t : Word) : (s.setPc t).keys = s.keys := rfl
@[simp] theorem State.setPc_prev (t : Word) : (s.setPc t).prev = s.prev := rfl
@[simp] theorem State.setPc_beep (t : Word) : (s.setPc t).beep = s.beep := rfl
@[simp] theorem State.setPc_fault (t : Word) : (s.setPc t).fault = s.fault := rfl
@[simp] theorem State.setPc_draws (t : Word) : (s.setPc t).draws = s.draws := rfl
@[simp] theorem State.setPc_font (t : Word) : (s.setPc t).font = s.font := rfl
@[simp] theorem State.setPc_reg (t : Word) (q : Reg) : (s.setPc t).reg q = s.reg q := rfl
@[simp] theorem State.setPc_readByte (t : Word) (a : Nat) : (s.setPc t).readByte a = s.readByte a := rfl

/-! ### setDt -/

@[simp] theorem State.setDt_v (b : Byte) : (s.setDt b).v = s.v := rfl
@[simp] theorem State.setDt_i (b : Byte) : (s.setDt b).i = s.i := rfl
@[simp] theorem State.setDt_pc (b : Byte) : (s.setDt b).pc = s.pc := rfl
@[simp] theorem State.setDt_stack (b : Byte) : (s.setDt b).stack = s.stack := rfl
@[simp] theorem State.setDt_sp (b : Byte) : (s.setDt b).sp = s.sp := rfl
@[simp] theorem State.setDt_mem (b : Byte) : (s.setDt b).mem = s.mem := rfl
@[simp] theorem State.setDt_fb (b : Byte) : (s.setDt b).fb = s.fb := rfl
@[simp] theorem State.setDt_draw (b : Byte) : (s.setDt b).draw = s.draw := rfl
@[simp] theorem State.setDt_dt (b : Byte) : (s.setDt b).dt = b := rfl
@[simp] theorem State.setDt_st (b : Byte) : (s.setDt b).st = s.st := rfl
@[simp] theorem State.setDt_keys (b : Byte) : (s.setDt b).keys = s.keys := rfl
@[simp] theorem State.setDt_prev (b : Byte) : (s.setDt b).prev = s.prev := rfl
@[simp] theorem State.setDt_beep (b : Byte) : (s.setDt b).beep = s.beep := rfl
@[simp] theorem State.setDt_fault (b : Byte) : (s.setDt b).fault = s.fault := rfl
@[simp] theorem State.setDt_draws (b : Byte) : (s.setDt b).draws = s.draws := rfl
@[simp] theorem State.setDt_font (b : Byte) : (s.setDt b).font = s.font := rfl
@[simp] theorem State.setDt_reg (b : Byte) (q : Reg) : (s.setDt b).reg q = s.reg q := rfl
@[simp] theorem State.setDt_readByte (b : Byte) (a : Nat) : (s.setDt b).readByte a = s.readByte a := rfl

/-! ### setSt -/

@[simp] theorem State.setSt_v (b : Byte) : (s.setSt b).v = s.v := rfl
@[simp] theorem State.setSt_i (b : Byte) : (s.setSt b).i = s.i := rfl
@[simp] theorem State.setSt_pc (b : Byte) : (s.setSt b).pc = s.pc := rfl
@[simp] theorem State.setSt_stack (b : Byte) : (s.setSt b).stack = s.stack := rfl
@[simp] theorem State.setSt_sp (b : Byte) : (s.setSt b).sp = s.sp := rfl
@[simp] theorem State.setSt_mem (b : Byte) : (s.setSt b).mem = s.mem := rfl
@[simp] theorem State.setSt_fb (b : Byte) : (s.setSt b).fb = s.fb := rfl
@[simp] theorem State.setSt_draw (b : Byte) : (s.setSt b).draw = s.draw := rfl
@[simp] theorem State.setSt_dt (b : Byte) : (s.setSt b).dt = s.dt := rfl
@[simp] theorem State.setSt_st (b : Byte) : (s.setSt b).st = b := rfl
@[simp] theorem State.setSt_keys (b : Byte) : (s.setSt b).keys = s.keys := rfl
@[simp] theorem State.setSt_prev (b : Byte) : (s.setSt b).prev = s.prev := rfl
@[simp] theorem State.setSt_beep (b : Byte) : (s.setSt b).beep = s.beep := rfl
@[simp] theorem State.setSt_fault (b : Byte) : (s.setSt b).fault = s.fault := rfl
@[simp] theorem State.setSt_draws (b : Byte) : (s.setSt b).draws = s.draws := rfl
@[simp] theorem State.setSt_font (b : Byte) : (s.setSt b).font = s.font := rfl
@[simp] theorem State.setSt_reg (b : Byte) (q : Reg) : (s.setSt b).reg q = s.reg q := rfl
@[simp] theorem State.setSt_readByte (b : Byte) (a : Nat) : (s.setSt b).readByte a = s.readByte a := rfl

/-! ### advance -/

@[simp] theorem State.advance_v : (s.advance).v = s.v := rfl
@[simp] theorem State.advance_i : (s.advance).i = s.i := rfl
@[simp] theorem State.advance_pc : (s.advance).pc = s.pc + 2 := rfl
@[simp] theorem State.advance_stack : (s.advance).stack = s.stack := rfl
@[simp] theorem State.advance_sp : (s.advance).sp = s.sp := rfl
@[simp] theorem State.advance_mem : (s.advance).mem = s.mem := rfl
@[simp] theorem State.advance_fb : (s.advance).fb = s.fb := rfl
@[simp] theorem State.advance_draw : (s.advance).draw = s.draw := rfl
@[simp] theorem State.advance_dt : (s.advance).dt = s.dt := rfl
@[simp] theorem State.advance_st : (s.advance).st = s.st := rfl
@[simp] theorem State.advance_keys : (s.advance).keys = s.keys := rfl
@[simp] theorem State.advance_prev : (s.advance).prev = s.prev := rfl
@[simp] theorem State.advance_beep : (s.advance).beep = s.beep := rfl
@[simp] theorem State.advance_fault : (s.advance).fault = s.fault := rfl
@[simp] theorem State.advance_draws : (s.advance).draws = s.draws := rfl
@[simp] theorem State.advance_font : (s.advance).font = s.font := rfl
@[simp] theorem State.advance_reg (q : Reg) : (s.advance).reg q = s.reg q := rfl
@[simp] theorem State.advance_readByte (a : Nat) : (s.advance).readByte a = s.readByte a := rfl

/-! ### skipIf -/

@[simp] theorem State.skipIf_v (c : Bool) : (s.skipIf c).v = s.v := rfl
@[simp] theorem State.skipIf_i (c : Bool) : (s.skipIf c).i = s.i := rfl
@[simp] theorem State.skipIf_pc (c : Bool) : (s.skipIf c).pc = if c then s.pc + 4 else s.pc + 2 := rfl
@[simp] theorem State.skipIf_stack (c : Bool) : (s.skipIf c).stack = s.stack := rfl
@[simp] theorem State.skipIf_sp (c : Bool) : (s.skipIf c).sp = s.sp := rfl
@[simp] theorem State.skipIf_mem (c : Bool) : (s.skipIf c).mem = s.mem := rfl
@[simp] theorem State.skipIf_fb (c : Bool) : (s.skipIf c).fb = s.fb := rfl
@[simp] theorem State.skipIf_draw (c : Bool) : (s.skipIf c).draw = s.draw := rfl
@[simp] theorem State.skipIf_dt (c : Bool) : (s.skipIf c).dt = s.dt := rfl
@[simp] theorem State.skipIf_st (c : Bool) : (s.skipIf c).st = s.st := rfl
@[simp] theorem State.skipIf_keys (c : Bool) : (s.skipIf c).keys = s.keys := rfl
@[simp] theorem State.skipIf_prev (c : Bool) : (s.skipIf c).prev = s.prev := rfl
@[simp] theorem State.skipIf_beep (c : Bool) : (s.skipIf c).beep = s.beep := rfl
@[simp] theorem State.skipIf_fault (c : Bool) : (s.skipIf c).fault = s.fault := rfl
@[simp] theorem State.skipIf_draws (c : Bool) : (s.skipIf c).draws = s.draws := rfl
@[simp] theorem State.skipIf_font (c : Bool) : (s.skipIf c).font = s.font := rfl
@[simp] theorem State.skipIf_reg (c : Bool) (q : Reg) : (s.skipIf c).reg q = s.reg q := rfl
@[simp] theorem State.skipIf_readByte (c : Bool) (a : Nat) : (s.skipIf c).readByte a = s.readByte a := rfl

/-! ### storeBytes -/

@[simp] theorem State.storeBytes_v (a : Nat) (bs : List Byte) : (s.storeBytes a bs).v = s.v := rfl
@[simp] theorem State.storeBytes_i (a : Nat) (bs : List Byte) : (s.storeBytes a bs).i = s.i := rfl
@[simp] theorem State.storeBytes_pc (a : Nat) (bs : List Byte) : (s.storeBytes a bs).pc = s.pc := rfl
@[simp] theorem State.storeBytes_stack (a : Nat) (bs : List Byte) : (s.storeBytes a bs).stack = s.stack := rfl
@[simp] theorem State.storeBytes_sp (a : Nat) (bs : List Byte) : (s.storeBytes a bs).sp = s.sp := rfl
@[simp] theorem State.storeBytes_mem (a : Nat) (bs : List Byte) : (s.storeBytes a bs).mem = s.mem.writeList s.font a bs := rfl
@[simp] theorem State.storeBytes_fb (a : Nat) (bs : List Byte) : (s.storeBytes a bs).fb = s.fb := rfl
@[simp] theorem State.storeBytes_draw (a : Nat) (bs : List Byte) : (s.storeBytes a bs).draw = s.draw := rfl
@[simp] theorem State.storeBytes_dt (a : Nat) (bs : List Byte) : (s.storeBytes a bs).dt = s.dt := rfl
@[simp] theorem State.storeBytes_st (a : Nat) (bs : List Byte) : (s.storeBytes a bs).st = s.st := rfl
@[simp] theorem State.storeBytes_keys (a : Nat) (bs : List Byte) : (s.storeBytes a bs).keys = s.keys := rfl
@[simp] theorem State.storeBytes_prev (a : Nat) (bs : List Byte) : (s.storeBytes a bs).prev = s.prev := rfl
@[simp] theorem State.storeBytes_beep (a : Nat) (bs : List Byte) : (s.storeBytes a bs).beep = s.beep := rfl
@[simp] theorem State.storeBytes_fault (a : Nat) (bs : List Byte) : (s.storeBytes a bs).fault = s.fault := rfl
@[simp] theorem State.storeBytes_draws (a : Nat) (bs : List Byte) : (s.storeBytes a bs).draws = s.draws := rfl
@[simp] theorem State.storeBytes_font (a : Nat) (bs : List Byte) : (s.storeBytes a bs).font = s.font := rfl
@[simp] theorem State.storeBytes_reg (a : Nat) (bs : List Byte) (q : Reg) : (s.storeBytes a bs).reg q = s.reg q := rfl

/-! ### withFault -/

@[simp] theorem State.withFault_v (f : Fault) : (s.withFault f).v = s.v := rfl
@[simp] theorem State.withFault_i (f : Fault) : (s.withFault f).i = s.i := rfl
@[simp] theorem State.withFault_pc (f : Fault) : (s.withFault f).pc = s.pc := rfl
@[simp] theorem State.withFault_stack (f : Fault) : (s.withFault f).stack = s.stack := rfl
@[simp] theorem State.withFault_sp (f : Fault) : (s.withFault f).sp = s.sp := rfl
@[simp] theorem State.withFault_mem (f : Fault) : (s.withFault f).mem = s.mem := rfl
@[simp] theorem State.withFault_fb (f : Fault) : (s.withFault f).fb = s.fb := rfl
@[simp] theorem State.withFault_draw (f : Fault) : (s.withFault f).draw = s.draw := rfl
@[simp] theorem State.withFault_dt (f : Fault) : (s.withFault f).dt = s.dt := rfl
@[simp] theorem State.withFault_st (f : Fault) : (s.withFault f).st = s.st := rfl
@[simp] theorem State.withFault_keys (f : Fault) : (s.withFault f).keys = s.keys := rfl
@[simp] theorem State.withFault_prev (f : Fault) : (s.withFault f).prev = s.prev := rfl
@[simp] theorem State.withFault_beep (f : Fault) : (s.withFault f).beep = s.beep := rfl
@[simp] theorem State.withFault_fault (f : Fault) : (s.withFault f).fault = some f := rfl
@[simp] theorem State.withFault_draws (f : Fault) : (s.withFault f).draws = s.draws := rfl
@[simp] theorem State.withFault_font (f : Fault) : (s.withFault f).font = s.font := rfl
@[simp] theorem State.withFault_reg (f : Fault) (q : Reg) : (s.withFault f).reg q = s.reg q := rfl
@[simp] theorem State.withFault_readByte (f : Fault) (a : Nat) : (s.withFault f).readByte a = s.readByte a := rfl

/-! ### setDisplay -/

@[simp] theorem State.setDisplay_v (fb : Framebuffer) : (s.setDisplay fb).v = s.v := rfl
@[simp] theorem State.setDisplay_i (fb : Framebuffer) : (s.setDisplay fb).i = s.i := rfl
@[simp] theorem State.setDisplay_pc (fb : Framebuffer) : (s.setDisplay fb).pc = s.pc := rfl
@[simp] theorem State.setDisplay_stack (fb : Framebuffer) : (s.setDisplay fb).stack = s.stack := rfl
@[simp] theorem State.setDisplay_sp (fb : Framebuffer) : (s.setDisplay fb).sp = s.sp := rfl
@[simp] theorem State.setDisplay_mem (fb : Framebuffer) : (s.setDisplay fb).mem = s.mem := rfl
@[simp] theorem State.setDisplay_fb (fb : Framebuffer) : (s.setDisplay fb).fb = fb := rfl
@[simp] theorem State.setDisplay_draw (fb : Framebuffer) : (s.setDisplay fb).draw = true := rfl
@[simp] theorem State.setDisplay_dt (fb : Framebuffer) : (s.setDisplay fb).dt = s.dt := rfl
@[simp] theorem State.setDisplay_st (fb : Framebuffer) : (s.setDisplay fb).st = s.st := rfl
@[simp] theorem State.setDisplay_keys (fb : Framebuffer) : (s.setDisplay fb).keys = s.keys := rfl
@[simp] theorem State.setDisplay_prev (fb : Framebuffer) : (s.setDisplay fb).prev = s.prev := rfl
@[simp] theorem State.setDisplay_beep (fb : Framebuffer) : (s.setDisplay fb).beep = s.beep := rfl
@[simp] theorem State.setDisplay_fault (fb : Framebuffer) : (s.setDisplay fb).fault = s.fault := rfl
@[simp] theorem State.setDisplay_draws (fb : Framebuffer) : (s.setDisplay fb).draws = s.draws := rfl
@[simp] theorem State.setDisplay_font (fb : Framebuffer) : (s.setDisplay fb).font = s.font := rfl
@[simp] theorem State.setDisplay_reg (fb : Framebuffer) (q : Reg) : (s.setDisplay fb).reg q = s.reg q := rfl
@[simp] theorem State.setDisplay_readByte (fb : Framebuffer) (a : Nat) : (s.setDisplay fb).readByte a = s.readByte a := rfl

/-! ### countDraw -/

@[simp] theorem State.countDraw_v : (s.countDraw).v = s.v := rfl
@[simp] theorem State.countDraw_i : (s.countDraw).i = s.i := rfl
@[simp] theorem State.countDraw_pc : (s.countDraw).pc = s.pc := rfl
@[simp] theorem State.countDraw_stack : (s.countDraw).stack = s.stack := rfl
@[simp] theorem State.countDraw_sp : (s.countDraw).sp = s.sp := rfl
@[simp] theorem State.countDraw_mem : (s.countDraw).mem = s.mem := rfl
@[simp] theorem State.countDraw_fb : (s.countDraw).fb = s.fb := rfl
@[simp] theorem State.countDraw_draw : (s.countDraw).draw = s.draw := rfl
@[simp] theorem State.countDraw_dt : (s.countDraw).dt = s.dt := rfl
@[simp] theorem State.countDraw_st : (s.countDraw).st = s.st := rfl
@[simp] theorem State.countDraw_keys : (s.countDraw).keys = s.keys := rfl
@[simp] theorem State.countDraw_prev : (s.countDraw).prev = s.prev := rfl
@[simp] theorem State.countDraw_beep : (s.countDraw).beep = s.beep := rfl
@[simp] theorem State.countDraw_fault : (s.countDraw).fault = s.fault := rfl
@[simp] theorem State.countDraw_draws : (s.countDraw).draws = s.draws + 1 := rfl
@[simp] theorem State.countDraw_font : (s.countDraw).font = s.font := rfl
@[simp] theorem State.countDraw_reg (q : Reg) : (s.countDraw).reg q = s.reg q := rfl
@[simp] theorem State.countDraw_readByte (a : Nat) : (s.countDraw).readByte a = s.readByte a := rfl

/-! ### bumpI -/

@[simp] theorem State.bumpI_v (x : Reg) : (s.bumpI x).v = s.v := rfl
@[simp] theorem State.bumpI_i (x : Reg) : (s.bumpI x).i = s.i + BitVec.ofNat 16 (x.val + 1) := rfl
@[simp] theorem State.bumpI_pc (x : Reg) : (s.bumpI x).pc = s.pc := rfl
@[simp] theorem State.bumpI_stack (x : Reg) : (s.bumpI x).stack = s.stack := rfl
@[simp] theorem State.bumpI_sp (x : Reg) : (s.bumpI x).sp = s.sp := rfl
@[simp] theorem State.bumpI_mem (x : Reg) : (s.bumpI x).mem = s.mem := rfl
@[simp] theorem State.bumpI_fb (x : Reg) : (s.bumpI x).fb = s.fb := rfl
@[simp] theorem State.bumpI_draw (x : Reg) : (s.bumpI x).draw = s.draw := rfl
@[simp] theorem State.bumpI_dt (x : Reg) : (s.bumpI x).dt = s.dt := rfl
@[simp] theorem State.bumpI_st (x : Reg) : (s.bumpI x).st = s.st := rfl
@[simp] theorem State.bumpI_keys (x : Reg) : (s.bumpI x).keys = s.keys := rfl
@[simp] theorem State.bumpI_prev (x : Reg) : (s.bumpI x).prev = s.prev := rfl
@[simp] theorem State.bumpI_beep (x : Reg) : (s.bumpI x).beep = s.beep := rfl
@[simp] theorem State.bumpI_fault (x : Reg) : (s.bumpI x).fault = s.fault := rfl
@[simp] theorem State.bumpI_draws (x : Reg) : (s.bumpI x).draws = s.draws := rfl
@[simp] theorem State.bumpI_font (x : Reg) : (s.bumpI x).font = s.font := rfl
@[simp] theorem State.bumpI_reg (x : Reg) (q : Reg) : (s.bumpI x).reg q = s.reg q := rfl
@[simp] theorem State.bumpI_readByte (x : Reg) (a : Nat) : (s.bumpI x).readByte a = s.readByte a := rfl

/-! ### loadRegsUpTo -/

@[simp] theorem State.loadRegsUpTo_v (x : Reg) : (s.loadRegsUpTo x).v = Vector.ofFn fun k => if k ≤ x then s.readByte (s.i.toNat + k.val) else s.reg k := rfl
@[simp] theorem State.loadRegsUpTo_i (x : Reg) : (s.loadRegsUpTo x).i = s.i := rfl
@[simp] theorem State.loadRegsUpTo_pc (x : Reg) : (s.loadRegsUpTo x).pc = s.pc := rfl
@[simp] theorem State.loadRegsUpTo_stack (x : Reg) : (s.loadRegsUpTo x).stack = s.stack := rfl
@[simp] theorem State.loadRegsUpTo_sp (x : Reg) : (s.loadRegsUpTo x).sp = s.sp := rfl
@[simp] theorem State.loadRegsUpTo_mem (x : Reg) : (s.loadRegsUpTo x).mem = s.mem := rfl
@[simp] theorem State.loadRegsUpTo_fb (x : Reg) : (s.loadRegsUpTo x).fb = s.fb := rfl
@[simp] theorem State.loadRegsUpTo_draw (x : Reg) : (s.loadRegsUpTo x).draw = s.draw := rfl
@[simp] theorem State.loadRegsUpTo_dt (x : Reg) : (s.loadRegsUpTo x).dt = s.dt := rfl
@[simp] theorem State.loadRegsUpTo_st (x : Reg) : (s.loadRegsUpTo x).st = s.st := rfl
@[simp] theorem State.loadRegsUpTo_keys (x : Reg) : (s.loadRegsUpTo x).keys = s.keys := rfl
@[simp] theorem State.loadRegsUpTo_prev (x : Reg) : (s.loadRegsUpTo x).prev = s.prev := rfl
@[simp] theorem State.loadRegsUpTo_beep (x : Reg) : (s.loadRegsUpTo x).beep = s.beep := rfl
@[simp] theorem State.loadRegsUpTo_fault (x : Reg) : (s.loadRegsUpTo x).fault = s.fault := rfl
@[simp] theorem State.loadRegsUpTo_draws (x : Reg) : (s.loadRegsUpTo x).draws = s.draws := rfl
@[simp] theorem State.loadRegsUpTo_font (x : Reg) : (s.loadRegsUpTo x).font = s.font := rfl
@[simp] theorem State.loadRegsUpTo_readByte (x : Reg) (a : Nat) : (s.loadRegsUpTo x).readByte a = s.readByte a := rfl

/-! ### putWithFlag -/

@[simp] theorem State.putWithFlag_v (x : Reg) (a b : Byte) : (s.putWithFlag x a b).v = (s.v.set x a).set VF b := rfl
@[simp] theorem State.putWithFlag_i (x : Reg) (a b : Byte) : (s.putWithFlag x a b).i = s.i := rfl
@[simp] theorem State.putWithFlag_pc (x : Reg) (a b : Byte) : (s.putWithFlag x a b).pc = s.pc + 2 := rfl
@[simp] theorem State.putWithFlag_stack (x : Reg) (a b : Byte) : (s.putWithFlag x a b).stack = s.stack := rfl
@[simp] theorem State.putWithFlag_sp (x : Reg) (a b : Byte) : (s.putWithFlag x a b).sp = s.sp := rfl
@[simp] theorem State.putWithFlag_mem (x : Reg) (a b : Byte) : (s.putWithFlag x a b).mem = s.mem := rfl
@[simp] theorem State.putWithFlag_fb (x : Reg) (a b : Byte) : (s.putWithFlag x a b).fb = s.fb := rfl
@[simp] theorem State.putWithFlag_draw (x : Reg) (a b : Byte) : (s.putWithFlag x a b).draw = s.draw := rfl
@[simp] theorem State.putWithFlag_dt (x : Reg) (a b : Byte) : (s.putWithFlag x a b).dt = s.dt := rfl
@[simp] theorem State.putWithFlag_st (x : Reg) (a b : Byte) : (s.putWithFlag x a b).st = s.st := rfl
@[simp] theorem State.putWithFlag_keys (x : Reg) (a b : Byte) : (s.putWithFlag x a b).keys = s.keys := rfl
@[simp] theorem State.putWithFlag_prev (x : Reg) (a b : Byte) : (s.putWithFlag x a b).prev = s.prev := rfl
@[simp] theorem State.putWithFlag_beep (x : Reg) (a b : Byte) : (s.putWithFlag x a b).beep = s.beep := rfl
@[simp] theorem State.putWithFlag_fault (x : Reg) (a b : Byte) : (s.putWithFlag x a b).fault = s.fault := rfl
@[simp] theorem State.putWithFlag_draws (x : Reg) (a b : Byte) : (s.putWithFlag x a b).draws = s.draws := rfl
@[simp] theorem State.putWithFlag_font (x : Reg) (a b : Byte) : (s.putWithFlag x a b).font = s.font := rfl
@[simp] theorem State.putWithFlag_readByte (x : Reg) (a b : Byte) (c : Nat) : (s.putWithFlag x a b).readByte c = s.readByte c := rfl

/-! ### shiftFrom -/

@[simp] theorem State.shiftFrom_i (x y : Reg) (f g : Byte → Byte) : (s.shiftFrom x y f g).i = s.i := rfl
@[simp] theorem State.shiftFrom_pc (x y : Reg) (f g : Byte → Byte) : (s.shiftFrom x y f g).pc = s.pc := rfl
@[simp] theorem State.shiftFrom_stack (x y : Reg) (f g : Byte → Byte) : (s.shiftFrom x y f g).stack = s.stack := rfl
@[simp] theorem State.shiftFrom_sp (x y : Reg) (f g : Byte → Byte) : (s.shiftFrom x y f g).sp = s.sp := rfl
@[simp] theorem State.shiftFrom_mem (x y : Reg) (f g : Byte → Byte) : (s.shiftFrom x y f g).mem = s.mem := rfl
@[simp] theorem State.shiftFrom_fb (x y : Reg) (f g : Byte → Byte) : (s.shiftFrom x y f g).fb = s.fb := rfl
@[simp] theorem State.shiftFrom_draw (x y : Reg) (f g : Byte → Byte) : (s.shiftFrom x y f g).draw = s.draw := rfl
@[simp] theorem State.shiftFrom_dt (x y : Reg) (f g : Byte → Byte) : (s.shiftFrom x y f g).dt = s.dt := rfl
@[simp] theorem State.shiftFrom_st (x y : Reg) (f g : Byte → Byte) : (s.shiftFrom x y f g).st = s.st := rfl
@[simp] theorem State.shiftFrom_keys (x y : Reg) (f g : Byte → Byte) : (s.shiftFrom x y f g).keys = s.keys := rfl
@[simp] theorem State.shiftFrom_prev (x y : Reg) (f g : Byte → Byte) : (s.shiftFrom x y f g).prev = s.prev := rfl
@[simp] theorem State.shiftFrom_beep (x y : Reg) (f g : Byte → Byte) : (s.shiftFrom x y f g).beep = s.beep := rfl
@[simp] theorem State.shiftFrom_fault (x y : Reg) (f g : Byte → Byte) : (s.shiftFrom x y f g).fault = s.fault := rfl
@[simp] theorem State.shiftFrom_draws (x y : Reg) (f g : Byte → Byte) : (s.shiftFrom x y f g).draws = s.draws := rfl
@[simp] theorem State.shiftFrom_font (x y : Reg) (f g : Byte → Byte) : (s.shiftFrom x y f g).font = s.font := rfl
@[simp] theorem State.shiftFrom_readByte (x y : Reg) (f g : Byte → Byte) (a : Nat) : (s.shiftFrom x y f g).readByte a = s.readByte a := rfl

/-! ### capture -/

@[simp] theorem State.capture_v (k : BitVec 16) : (s.capture k).v = s.v := rfl
@[simp] theorem State.capture_i (k : BitVec 16) : (s.capture k).i = s.i := rfl
@[simp] theorem State.capture_pc (k : BitVec 16) : (s.capture k).pc = s.pc := rfl
@[simp] theorem State.capture_stack (k : BitVec 16) : (s.capture k).stack = s.stack := rfl
@[simp] theorem State.capture_sp (k : BitVec 16) : (s.capture k).sp = s.sp := rfl
@[simp] theorem State.capture_mem (k : BitVec 16) : (s.capture k).mem = s.mem := rfl
@[simp] theorem State.capture_fb (k : BitVec 16) : (s.capture k).fb = s.fb := rfl
@[simp] theorem State.capture_draw (k : BitVec 16) : (s.capture k).draw = s.draw := rfl
@[simp] theorem State.capture_dt (k : BitVec 16) : (s.capture k).dt = s.dt := rfl
@[simp] theorem State.capture_st (k : BitVec 16) : (s.capture k).st = s.st := rfl
@[simp] theorem State.capture_keys (k : BitVec 16) : (s.capture k).keys = k := rfl
@[simp] theorem State.capture_prev (k : BitVec 16) : (s.capture k).prev = s.keys := rfl
@[simp] theorem State.capture_beep (k : BitVec 16) : (s.capture k).beep = s.beep := rfl
@[simp] theorem State.capture_fault (k : BitVec 16) : (s.capture k).fault = s.fault := rfl
@[simp] theorem State.capture_draws (k : BitVec 16) : (s.capture k).draws = s.draws := rfl
@[simp] theorem State.capture_font (k : BitVec 16) : (s.capture k).font = s.font := rfl
@[simp] theorem State.capture_reg (k : BitVec 16) (q : Reg) : (s.capture k).reg q = s.reg q := rfl
@[simp] theorem State.capture_readByte (k : BitVec 16) (a : Nat) : (s.capture k).readByte a = s.readByte a := rfl

/-! ### tick -/

@[simp] theorem State.tick_v : (s.tick).v = s.v := rfl
@[simp] theorem State.tick_i : (s.tick).i = s.i := rfl
@[simp] theorem State.tick_pc : (s.tick).pc = s.pc := rfl
@[simp] theorem State.tick_stack : (s.tick).stack = s.stack := rfl
@[simp] theorem State.tick_sp : (s.tick).sp = s.sp := rfl
@[simp] theorem State.tick_mem : (s.tick).mem = s.mem := rfl
@[simp] theorem State.tick_fb : (s.tick).fb = s.fb := rfl
@[simp] theorem State.tick_draw : (s.tick).draw = s.draw := rfl
@[simp] theorem State.tick_dt : (s.tick).dt = countDown s.dt := rfl
@[simp] theorem State.tick_st : (s.tick).st = countDown s.st := rfl
@[simp] theorem State.tick_keys : (s.tick).keys = s.keys := rfl
@[simp] theorem State.tick_prev : (s.tick).prev = s.prev := rfl
@[simp] theorem State.tick_beep : (s.tick).beep = decide (s.st ≠ 0) := rfl
@[simp] theorem State.tick_fault : (s.tick).fault = s.fault := rfl
@[simp] theorem State.tick_draws : (s.tick).draws = s.draws := rfl
@[simp] theorem State.tick_font : (s.tick).font = s.font := rfl
@[simp] theorem State.tick_reg (q : Reg) : (s.tick).reg q = s.reg q := rfl
@[simp] theorem State.tick_readByte (a : Nat) : (s.tick).readByte a = s.readByte a := rfl

/-! ### ackRedraw -/

@[simp] theorem State.ackRedraw_v : (s.ackRedraw).v = s.v := rfl
@[simp] theorem State.ackRedraw_i : (s.ackRedraw).i = s.i := rfl
@[simp] theorem State.ackRedraw_pc : (s.ackRedraw).pc = s.pc := rfl
@[simp] theorem State.ackRedraw_stack : (s.ackRedraw).stack = s.stack := rfl
@[simp] theorem State.ackRedraw_sp : (s.ackRedraw).sp = s.sp := rfl
@[simp] theorem State.ackRedraw_mem : (s.ackRedraw).mem = s.mem := rfl
@[simp] theorem State.ackRedraw_fb : (s.ackRedraw).fb = s.fb := rfl
@[simp] theorem State.ackRedraw_draw : (s.ackRedraw).draw = false := rfl
@[simp] theorem State.ackRedraw_dt : (s.ackRedraw).dt = s.dt := rfl
@[simp] theorem State.ackRedraw_st : (s.ackRedraw).st = s.st := rfl
@[simp] theorem State.ackRedraw_keys : (s.ackRedraw).keys = s.keys := rfl
@[simp] theorem State.ackRedraw_prev : (s.ackRedraw).prev = s.prev := rfl
@[simp] theorem State.ackRedraw_beep : (s.ackRedraw).beep = s.beep := rfl
@[simp] theorem State.ackRedraw_fault : (s.ackRedraw).fault = s.fault := rfl
@[simp] theorem State.ackRedraw_draws : (s.ackRedraw).draws = s.draws := rfl
@[simp] theorem State.ackRedraw_font : (s.ackRedraw).font = s.font := rfl
@[simp] theorem State.ackRedraw_reg (q : Reg) : (s.ackRedraw).reg q = s.reg q := rfl
@[simp] theorem State.ackRedraw_readByte (a : Nat) : (s.ackRedraw).readByte a = s.readByte a := rfl

/-! ### placeWord -/

@[simp] theorem State.placeWord_v (w : Word) : (s.placeWord w).v = s.v := rfl
@[simp] theorem State.placeWord_i (w : Word) : (s.placeWord w).i = s.i := rfl
@[simp] theorem State.placeWord_pc (w : Word) : (s.placeWord w).pc = BitVec.ofNat 16 s.placeAddr := rfl
@[simp] theorem State.placeWord_stack (w : Word) : (s.placeWord w).stack = s.stack := rfl
@[simp] theorem State.placeWord_sp (w : Word) : (s.placeWord w).sp = s.sp := rfl
@[simp] theorem State.placeWord_mem (w : Word) : (s.placeWord w).mem = s.mem.writeList s.font s.placeAddr [highByte w, lowByte w] := rfl
@[simp] theorem State.placeWord_fb (w : Word) : (s.placeWord w).fb = s.fb := rfl
@[simp] theorem State.placeWord_draw (w : Word) : (s.placeWord w).draw = s.draw := rfl
@[simp] theorem State.placeWord_dt (w : Word) : (s.placeWord w).dt = s.dt := rfl
@[simp] theorem State.placeWord_st (w : Word) : (s.placeWord w).st = s.st := rfl
@[simp] theorem State.placeWord_keys (w : Word) : (s.placeWord w).keys = s.keys := rfl
@[simp] theorem State.placeWord_prev (w : Word) : (s.placeWord w).prev = s.prev := rfl
@[simp] theorem State.placeWord_beep (w : Word) : (s.placeWord w).beep = s.beep := rfl
@[simp] theorem State.placeWord_fault (w : Word) : (s.placeWord w).fault = none := rfl
@[simp] theorem State.placeWord_draws (w : Word) : (s.placeWord w).draws = s.draws := rfl
@[simp] theorem State.placeWord_font (w : Word) : (s.placeWord w).font = s.font := rfl
@[simp] theorem State.placeWord_reg (w : Word) (q : Reg) : (s.placeWord w).reg q = s.reg q := rfl

/-! ### Registers read back -/

/-- A register write reads back, and leaves every other register alone. -/
theorem State.setReg_reg (r q : Reg) (b : Byte) : (s.setReg r b).reg q = if r = q then b else s.reg q := by
  simp [State.reg, State.setReg, Vector.getElem_set, Fin.ext_iff]

@[simp] theorem State.setReg_reg_self (r : Reg) (b : Byte) : (s.setReg r b).reg r = b := by simp [State.setReg_reg]

theorem State.setReg_reg_ne {r q : Reg} (b : Byte) (h : q ≠ r) : (s.setReg r b).reg q = s.reg q := by
  simp [State.setReg_reg, Ne.symm h]

/-- The flag is written last, so it wins where the result register is VF. -/
theorem State.putWithFlag_reg (x q : Reg) (a b : Byte) :
    (s.putWithFlag x a b).reg q = if q = VF then b else if q = x then a else s.reg q := by
  simp only [State.putWithFlag, State.advance_reg, State.setReg_reg, eq_comm]

/-- The block load of FX65, register by register. -/
theorem State.loadRegsUpTo_reg (x q : Reg) :
    (s.loadRegsUpTo x).reg q = if q ≤ x then s.readByte (s.i.toNat + q.val) else s.reg q := by
  simp [State.reg, State.loadRegsUpTo]

/-- Two states with the same registers, read one by one, have the same register file. -/
theorem State.v_ext {s t : State} (h : ∀ q, t.reg q = s.reg q) : t.v = s.v := by
  apply Vector.ext
  intro k hk
  exact h ⟨k, hk⟩

end Sys2Proof.Machine
end

