-- ==== Sys2Proof/Laws/Ops.lean ====
section
/-! SUPPORT. For each shared operation, everything it can do, said once: the checks that raise a fault, the stack, the
key scan, and the skeleton of a step. Later proofs cite these and unfold nothing. -/

namespace Sys2Proof.Machine

variable {s t : State}

/-- A raised fault is a next state: FAULT is written and nothing else (R182). -/
@[simp] theorem raise_eq_next (f : Fault) : raise f s = .next t ↔ s.withFault f = t := by
  simp [raise]

/-- The check of R55 lets a range inside memory pass. -/
theorem withRange_inRange {len : Nat} {go : Result} (h : s.InRange len) : withRange s len go = go := by
  exact if_pos h

/-- The check of R55 raises on a range that leaves memory, with the lowest offending address. -/
theorem withRange_outOfRange {len : Nat} {go : Result} (h : ¬s.InRange len) :
    withRange s len go = raise (.memOutOfBounds (max s.i.toNat Config.memSize)) s := by
  exact if_neg h

/-- All that a checked memory instruction can do. -/
theorem withRange_next {len : Nat} {u : State} (h : withRange s len (.next u) = .next t) :
    (s.InRange len ∧ t = u) ∨
      (¬s.InRange len ∧ t = s.withFault (.memOutOfBounds (max s.i.toNat Config.memSize))) := by
  by_cases hr : s.InRange len
  · rw [withRange_inRange hr] at h
    exact .inl ⟨hr, by simpa using h.symm⟩
  · rw [withRange_outOfRange hr] at h
    exact .inr ⟨hr, ((raise_eq_next _).mp h).symm⟩

/-- All that a push can do (R105). -/
theorem withPush_cases (a : Word) (go : State → Result) :
    (∃ h : s.sp.val < 16,
      withPush s a go = go { s with stack := s.stack.set s.sp.val a h, sp := ⟨s.sp.val + 1, by omega⟩ }) ∨
    (s.sp = 16 ∧ withPush s a go = raise .stackOverflow s) := by
  by_cases h : s.sp.val < 16
  · exact .inl ⟨h, by simp [withPush, h]⟩
  · exact .inr ⟨Fin.ext (show s.sp.val = 16 by omega), by simp [withPush, h]⟩

/-- All that a pop can do (R103). -/
theorem withPop_cases (go : State → Word → Result) :
    (∃ h : 0 < s.sp.val,
      withPop s go = go { s with sp := ⟨s.sp.val - 1, by omega⟩ } (s.stack[s.sp.val - 1]'(by omega))) ∨
    (s.sp = 0 ∧ withPop s go = raise .stackUnderflow s) := by
  by_cases h : 0 < s.sp.val
  · exact .inl ⟨h, by simp [withPop, h]⟩
  · exact .inr ⟨Fin.ext (show s.sp.val = 0 by omega), by simp [withPop, h]⟩

/-- All that the key index check can do (R165). -/
theorem withKey_cases (x : Reg) (go : Nat → Result) :
    ((s.reg x).toNat ≤ 15 ∧ withKey s x go = go (s.reg x).toNat) ∨
    (15 < (s.reg x).toNat ∧ withKey s x go = raise (.keyIndexOutOfBounds (s.reg x)) s) := by
  by_cases h : 15 < (s.reg x).toNat
  · exact .inr ⟨h, if_pos h⟩
  · exact .inl ⟨by omega, if_neg h⟩

/-! ### Reading memory after a store -/

/-- What a byte read finds after a block is stored inside the address space. -/
theorem State.storeBytes_readByte (h : s.mem.wf s.font = true) {a : Nat} {bs : List Byte}
    (ha : bs = [] ∨ a + bs.length ≤ Config.memSize) (c : Nat) :
    (s.storeBytes a bs).readByte c = if a ≤ c ∧ c < a + bs.length then bs.getD (c - a) 0 else s.readByte c :=
  Memory.read_writeList h ha c

/-- What a byte read finds after a word is placed for the next fetch. -/
theorem State.placeWord_readByte (h : s.mem.wf s.font = true) (w : Word) (c : Nat) :
    (s.placeWord w).readByte c =
      if s.placeAddr ≤ c ∧ c < s.placeAddr + 2 then [highByte w, lowByte w].getD (c - s.placeAddr) 0
      else s.readByte c := by
  have room : s.placeAddr + 2 ≤ Config.memSize := by
    unfold State.placeAddr State.canFetch
    split
    · rename_i hc
      simp only [decide_eq_true_eq] at hc
      omega
    · decide
  exact Memory.read_writeList h (.inr room) c

/-- The scan of R163 finds k exactly when k shows the release edge and no lower key does. -/
theorem State.releaseEdge_eq_some (k : Nat) :
    s.releaseEdge = some k ↔
      k < 16 ∧ s.keyDown k = false ∧ s.wasDown k = true ∧
        ∀ j < k, ¬(s.keyDown j = false ∧ s.wasDown j = true) := by
  simp only [State.releaseEdge, List.find?_range_eq_some, List.mem_range, Bool.and_eq_true, Bool.not_eq_true',
    Bool.and_eq_false_iff, Bool.not_eq_false', not_and, Bool.not_eq_true]
  constructor
  · rintro ⟨⟨h1, h2⟩, h3, h4⟩
    refine ⟨h3, h1, h2, fun j hj hd => ?_⟩
    rcases h4 j hj with h | h
    · simp [h] at hd
    · exact h
  · rintro ⟨h3, h1, h2, h4⟩
    refine ⟨⟨h1, h2⟩, h3, fun j hj => ?_⟩
    cases hd : s.keyDown j
    · exact .inr (h4 j hj hd)
    · exact .inl rfl

/-- The scan of R163 finds nothing exactly when no key shows the release edge. -/
theorem State.releaseEdge_eq_none :
    s.releaseEdge = none ↔ ∀ k < 16, ¬(s.keyDown k = false ∧ s.wasDown k = true) := by
  simp [State.releaseEdge]

/-- A faulted block changes nothing (R100, item 1). -/
theorem fetchExecute_faulted {run : Instr → State → Result} (h : s.fault ≠ none) : fetchExecute run s = .next s := by
  simp [fetchExecute, Option.isSome_iff_ne_none, h]

/-- With PC above 4094 the step raises before the fetch (R100, item 2). -/
theorem fetchExecute_pcOut {run : Instr → State → Result} (h : s.fault = none) (hp : s.canFetch = false) :
    fetchExecute run s = raise (.pcOutOfBounds s.pc) s := by
  simp [fetchExecute, h, hp]

/-- Otherwise the fetched word is decoded and run (R100, items 3 to 5). -/
theorem fetchExecute_running {run : Instr → State → Result} (h : s.fault = none) (hp : s.canFetch = true) :
    fetchExecute run s = run (decode s.fetchWord) s := by
  simp [fetchExecute, h, hp]

/-- All that a step can do. -/
theorem step_cases (h : step s = .next t) :
    (s.fault ≠ none ∧ t = s) ∨
    (s.fault = none ∧ s.canFetch = false ∧ t = s.withFault (.pcOutOfBounds s.pc)) ∨
    (s.fault = none ∧ s.canFetch = true ∧ exec (decode s.fetchWord) s = .next t) := by
  by_cases hf : s.fault = none
  · cases hp : s.canFetch
    · rw [step, fetchExecute_pcOut hf hp] at h
      exact .inr (.inl ⟨hf, rfl, ((raise_eq_next _).mp h).symm⟩)
    · rw [step, fetchExecute_running hf hp] at h
      exact .inr (.inr ⟨hf, rfl, h⟩)
  · rw [step, fetchExecute_faulted hf] at h
    exact .inl ⟨hf, by simpa using h.symm⟩

/-- A state that a step answers with itself is answered by every run. -/
theorem run_of_step_fixed (M : Host.Core) {s : M.State} (h : M.step s = .next s) (n : Nat) : M.run n s = .next s := by
  induction n with
  | zero => rfl
  | succ n ih => simpa only [Host.Core.run, h] using ih

end Sys2Proof.Machine
end

