-- ==== Sys2Proof/Laws/PerInstr.lean ====
section
/-! SUPPORT. Statements made for every instruction, one lemma per constructor: the family nibble of the encoded word is
the one the opcode map gives the instruction (spec/30_encoding.md R71, R75). -/

namespace Sys2Proof.Laws

/-- The family nibble of R75 for an instruction; an unrecognized word has its own. -/
def familyOf : Instr → BitVec 4
  | .cls => 0x0#4
  | .ret => 0x0#4
  | .sys _ => 0x0#4
  | .jp _ => 0x1#4
  | .call _ => 0x2#4
  | .seImm _ _ => 0x3#4
  | .sneImm _ _ => 0x4#4
  | .seReg _ _ => 0x5#4
  | .ldImm _ _ => 0x6#4
  | .addImm _ _ => 0x7#4
  | .ldReg _ _ => 0x8#4
  | .orReg _ _ => 0x8#4
  | .andReg _ _ => 0x8#4
  | .xorReg _ _ => 0x8#4
  | .addReg _ _ => 0x8#4
  | .subReg _ _ => 0x8#4
  | .shr _ _ => 0x8#4
  | .subn _ _ => 0x8#4
  | .shl _ _ => 0x8#4
  | .sneReg _ _ => 0x9#4
  | .ldI _ => 0xA#4
  | .jpV0 _ => 0xB#4
  | .rnd _ _ => 0xC#4
  | .drw _ _ _ => 0xD#4
  | .skp _ => 0xE#4
  | .sknp _ => 0xE#4
  | .ldVxDt _ => 0xF#4
  | .ldVxK _ => 0xF#4
  | .ldDtVx _ => 0xF#4
  | .ldStVx _ => 0xF#4
  | .addI _ => 0xF#4
  | .ldF _ => 0xF#4
  | .ldB _ => 0xF#4
  | .storeRegs _ => 0xF#4
  | .loadRegs _ => 0xF#4
  | .unrecognized w => fieldFamily w

/-- The encoded word of the instruction carries its family nibble in bits 15 to 12. -/
def EncodedFamily.Statement (i : Instr) : Prop := fieldFamily (encode i) = familyOf i

theorem EncodedFamily.cls : EncodedFamily.Statement .cls := rfl
theorem EncodedFamily.ret : EncodedFamily.Statement .ret := rfl
theorem EncodedFamily.sys (nnn : BitVec 12) : EncodedFamily.Statement (.sys nnn) := fieldFamily_encodeAddr _ _
theorem EncodedFamily.jp (nnn : BitVec 12) : EncodedFamily.Statement (.jp nnn) := fieldFamily_encodeAddr _ _
theorem EncodedFamily.call (nnn : BitVec 12) : EncodedFamily.Statement (.call nnn) := fieldFamily_encodeAddr _ _
theorem EncodedFamily.seImm (x : Reg) (nn : Byte) : EncodedFamily.Statement (.seImm x nn) := fieldFamily_encodeRegImm _ _ _
theorem EncodedFamily.sneImm (x : Reg) (nn : Byte) : EncodedFamily.Statement (.sneImm x nn) := fieldFamily_encodeRegImm _ _ _
theorem EncodedFamily.seReg (x : Reg) (y : Reg) : EncodedFamily.Statement (.seReg x y) := fieldFamily_encodeRegReg _ _ _ _
theorem EncodedFamily.ldImm (x : Reg) (nn : Byte) : EncodedFamily.Statement (.ldImm x nn) := fieldFamily_encodeRegImm _ _ _
theorem EncodedFamily.addImm (x : Reg) (nn : Byte) : EncodedFamily.Statement (.addImm x nn) := fieldFamily_encodeRegImm _ _ _
theorem EncodedFamily.ldReg (x : Reg) (y : Reg) : EncodedFamily.Statement (.ldReg x y) := fieldFamily_encodeRegReg _ _ _ _
theorem EncodedFamily.orReg (x : Reg) (y : Reg) : EncodedFamily.Statement (.orReg x y) := fieldFamily_encodeRegReg _ _ _ _
theorem EncodedFamily.andReg (x : Reg) (y : Reg) : EncodedFamily.Statement (.andReg x y) := fieldFamily_encodeRegReg _ _ _ _
theorem EncodedFamily.xorReg (x : Reg) (y : Reg) : EncodedFamily.Statement (.xorReg x y) := fieldFamily_encodeRegReg _ _ _ _
theorem EncodedFamily.addReg (x : Reg) (y : Reg) : EncodedFamily.Statement (.addReg x y) := fieldFamily_encodeRegReg _ _ _ _
theorem EncodedFamily.subReg (x : Reg) (y : Reg) : EncodedFamily.Statement (.subReg x y) := fieldFamily_encodeRegReg _ _ _ _
theorem EncodedFamily.shr (x : Reg) (y : Reg) : EncodedFamily.Statement (.shr x y) := fieldFamily_encodeRegReg _ _ _ _
theorem EncodedFamily.subn (x : Reg) (y : Reg) : EncodedFamily.Statement (.subn x y) := fieldFamily_encodeRegReg _ _ _ _
theorem EncodedFamily.shl (x : Reg) (y : Reg) : EncodedFamily.Statement (.shl x y) := fieldFamily_encodeRegReg _ _ _ _
theorem EncodedFamily.sneReg (x : Reg) (y : Reg) : EncodedFamily.Statement (.sneReg x y) := fieldFamily_encodeRegReg _ _ _ _
theorem EncodedFamily.ldI (nnn : BitVec 12) : EncodedFamily.Statement (.ldI nnn) := fieldFamily_encodeAddr _ _
theorem EncodedFamily.jpV0 (nnn : BitVec 12) : EncodedFamily.Statement (.jpV0 nnn) := fieldFamily_encodeAddr _ _
theorem EncodedFamily.rnd (x : Reg) (nn : Byte) : EncodedFamily.Statement (.rnd x nn) := fieldFamily_encodeRegImm _ _ _
theorem EncodedFamily.drw (x : Reg) (y : Reg) (n : BitVec 4) : EncodedFamily.Statement (.drw x y n) := fieldFamily_encodeRegReg _ _ _ _
theorem EncodedFamily.skp (x : Reg) : EncodedFamily.Statement (.skp x) := fieldFamily_encodeRegImm _ _ _
theorem EncodedFamily.sknp (x : Reg) : EncodedFamily.Statement (.sknp x) := fieldFamily_encodeRegImm _ _ _
theorem EncodedFamily.ldVxDt (x : Reg) : EncodedFamily.Statement (.ldVxDt x) := fieldFamily_encodeRegImm _ _ _
theorem EncodedFamily.ldVxK (x : Reg) : EncodedFamily.Statement (.ldVxK x) := fieldFamily_encodeRegImm _ _ _
theorem EncodedFamily.ldDtVx (x : Reg) : EncodedFamily.Statement (.ldDtVx x) := fieldFamily_encodeRegImm _ _ _
theorem EncodedFamily.ldStVx (x : Reg) : EncodedFamily.Statement (.ldStVx x) := fieldFamily_encodeRegImm _ _ _
theorem EncodedFamily.addI (x : Reg) : EncodedFamily.Statement (.addI x) := fieldFamily_encodeRegImm _ _ _
theorem EncodedFamily.ldF (x : Reg) : EncodedFamily.Statement (.ldF x) := fieldFamily_encodeRegImm _ _ _
theorem EncodedFamily.ldB (x : Reg) : EncodedFamily.Statement (.ldB x) := fieldFamily_encodeRegImm _ _ _
theorem EncodedFamily.storeRegs (x : Reg) : EncodedFamily.Statement (.storeRegs x) := fieldFamily_encodeRegImm _ _ _
theorem EncodedFamily.loadRegs (x : Reg) : EncodedFamily.Statement (.loadRegs x) := fieldFamily_encodeRegImm _ _ _
theorem EncodedFamily.unrecognized (w : Word) : EncodedFamily.Statement (.unrecognized w) := rfl

end Sys2Proof.Laws
end

