-- ==== Sys2Proof/Laws/Sprite.lean ====
section
/-! SUPPORT. What the draw loop of spec/43_display.md R151 does, said once: the cells it flips and the collision it
reports. It rests on corner case (e): no two set bits of one sprite reach the same pixel. -/

namespace Sys2Proof.Machine

/-- A pixel is reached by one column and one row at most: the target determines both within 8 columns and 32 rows. -/
theorem drawTarget_inj {clip : Bool} {ox ty c d j k : Nat} {p : Pixel} (hc : c < 8) (hd : d < 8) (hj : j < 32)
    (hk : k < 32) (h1 : drawTarget clip (ox + c) (ty + j) = some p)
    (h2 : drawTarget clip (ox + d) (ty + k) = some p) : c = d ∧ j = k := by
  cases clip with
  | false =>
    simp only [drawTarget, Bool.false_eq_true, if_false, Option.some.injEq] at h1 h2
    have hx := congrArg (fun q : Pixel => q.col.val) (h1.trans h2.symm)
    have hy := congrArg (fun q : Pixel => q.row.val) (h1.trans h2.symm)
    simp only at hx hy
    omega
  | true =>
    simp only [drawTarget, if_true] at h1 h2
    split at h1 <;> split at h2 <;> simp_all only [Option.some.injEq, reduceCtorEq]
    have hx := congrArg (fun q : Pixel => q.col.val) h2
    have hy := congrArg (fun q : Pixel => q.row.val) h2
    have hx1 := congrArg (fun q : Pixel => q.col.val) h1
    have hy1 := congrArg (fun q : Pixel => q.row.val) h1
    simp only at hx hy hx1 hy1
    omega

/-- One column: it flips its target, if its bit is set, and reports whether that target was 1. -/
theorem drawColumn_spec (clip : Bool) (ox ty : Nat) (row : Byte) (acc : Framebuffer × Bool) (c : Nat) :
    (∀ q, (drawColumn clip ox ty row acc c).1.lit q ≠ acc.1.lit q ↔
      spriteBit row c = true ∧ drawTarget clip (ox + c) ty = some q) ∧
    ((drawColumn clip ox ty row acc c).2 = true ↔ acc.2 = true ∨
      ∃ q, (spriteBit row c = true ∧ drawTarget clip (ox + c) ty = some q) ∧ acc.1.lit q = true) := by
  unfold drawColumn
  cases hb : spriteBit row c with
  | false => simp
  | true =>
    cases ht : drawTarget clip (ox + c) ty with
    | none => simp
    | some p =>
      refine ⟨fun q => ?_, by simp⟩
      simp only [if_true, Framebuffer.lit_toggle]
      by_cases hq : p = q <;> simp [hq]

/-- Two pieces of a drawing put together: pieces that flip different cells flip, together, the cells of both, and the
second piece meets the cells of the first as they were. -/
theorem draw_append {a b c : Framebuffer × Bool} {P Q : Pixel → Prop} (hPQ : ∀ q, P q → ¬Q q)
    (h1 : (∀ q, b.1.lit q ≠ a.1.lit q ↔ P q) ∧ (b.2 = true ↔ a.2 = true ∨ ∃ q, P q ∧ a.1.lit q = true))
    (h2 : (∀ q, c.1.lit q ≠ b.1.lit q ↔ Q q) ∧ (c.2 = true ↔ b.2 = true ∨ ∃ q, Q q ∧ b.1.lit q = true)) :
    (∀ q, c.1.lit q ≠ a.1.lit q ↔ P q ∨ Q q) ∧
      (c.2 = true ↔ a.2 = true ∨ ∃ q, (P q ∨ Q q) ∧ a.1.lit q = true) := by
  have same : ∀ q, Q q → b.1.lit q = a.1.lit q := fun q hq =>
    Classical.byContradiction fun hne => hPQ q ((h1.1 q).1 hne) hq
  refine ⟨fun q => ?_, ?_⟩
  · have e1 := h1.1 q
    have e2 := h2.1 q
    have e3 := hPQ q
    cases ha : a.1.lit q <;> cases hb : b.1.lit q <;> cases hc : c.1.lit q <;> simp_all
  · rw [h2.2, h1.2, or_assoc]
    refine or_congr_right ⟨?_, ?_⟩
    · rintro (⟨q, hq, hl⟩ | ⟨q, hq, hl⟩)
      · exact ⟨q, .inl hq, hl⟩
      · exact ⟨q, .inr hq, same q hq ▸ hl⟩
    · rintro ⟨q, hq | hq, hl⟩
      · exact .inl ⟨q, hq, hl⟩
      · exact .inr ⟨q, hq, (same q hq).trans hl⟩

/-- The columns of a list without repeats. -/
theorem drawColumns_spec (clip : Bool) (ox ty : Nat) (row : Byte) (cs : List Nat) :
    ∀ acc : Framebuffer × Bool, cs.Nodup → (∀ c ∈ cs, c < 8) →
      (∀ q, (cs.foldl (drawColumn clip ox ty row) acc).1.lit q ≠ acc.1.lit q ↔
        ∃ c ∈ cs, spriteBit row c = true ∧ drawTarget clip (ox + c) ty = some q) ∧
      ((cs.foldl (drawColumn clip ox ty row) acc).2 = true ↔ acc.2 = true ∨
        ∃ q, (∃ c ∈ cs, spriteBit row c = true ∧ drawTarget clip (ox + c) ty = some q) ∧ acc.1.lit q = true) := by
  induction cs with
  | nil => intro acc _ _; simp
  | cons c cs ih =>
    intro acc hn h8
    rw [List.nodup_cons] at hn
    have step := drawColumn_spec clip ox ty row acc c
    have rest := ih (drawColumn clip ox ty row acc c) hn.2 fun d hd => h8 d (List.mem_cons_of_mem _ hd)
    have both := draw_append (fun q hP hQ => by
      obtain ⟨d, hd, _, ht⟩ := hQ
      have hcd := drawTarget_inj (j := 0) (k := 0) (h8 c List.mem_cons_self) (h8 d (List.mem_cons_of_mem _ hd))
        (by omega) (by omega) hP.2 ht
      exact hn.1 (hcd.1 ▸ hd)) step rest
    simpa only [List.foldl_cons, List.exists_mem_cons_iff] using both

/-- One row of the draw loop (R151). -/
theorem drawRow_spec (clip : Bool) (ox ty : Nat) (row : Byte) (acc : Framebuffer × Bool) :
    (∀ q, (drawRow clip ox ty row acc).1.lit q ≠ acc.1.lit q ↔
      ∃ c < 8, spriteBit row c = true ∧ drawTarget clip (ox + c) ty = some q) ∧
    ((drawRow clip ox ty row acc).2 = true ↔ acc.2 = true ∨
      ∃ q, (∃ c < 8, spriteBit row c = true ∧ drawTarget clip (ox + c) ty = some q) ∧ acc.1.lit q = true) := by
  simpa only [drawRow, List.mem_range] using
    drawColumns_spec clip ox ty row (List.range 8) acc List.nodup_range fun c hc => List.mem_range.1 hc

/-- The draw loop (R151): it flips exactly the pixels some set bit reaches, and reports a collision exactly when one
of them was 1. -/
theorem drawRows_spec (clip : Bool) (ox : Nat) (rows : List Byte) :
    ∀ (ty : Nat) (acc : Framebuffer × Bool), rows.length ≤ 32 →
      (∀ q, (drawRows clip ox ty rows acc).1.lit q ≠ acc.1.lit q ↔
        ∃ r c, ∃ h : r < rows.length, c < 8 ∧ spriteBit rows[r] c = true ∧
          drawTarget clip (ox + c) (ty + r) = some q) ∧
      ((drawRows clip ox ty rows acc).2 = true ↔ acc.2 = true ∨
        ∃ q, (∃ r c, ∃ h : r < rows.length, c < 8 ∧ spriteBit rows[r] c = true ∧
          drawTarget clip (ox + c) (ty + r) = some q) ∧ acc.1.lit q = true) := by
  induction rows with
  | nil => intro ty acc _; simp [drawRows]
  | cons row rows ih =>
    intro ty acc hlen
    have hl : rows.length + 1 ≤ 32 := hlen
    have both := draw_append (fun q hP hQ => by
      obtain ⟨c, hc, _, ht⟩ := hP
      obtain ⟨r, d, hr, hd, _, hu⟩ := hQ
      have := drawTarget_inj (ox := ox) (ty := ty) (j := 0) (k := r + 1) hc hd (by omega) (by omega) ht
        (by rwa [Nat.add_assoc, Nat.add_comm 1 r] at hu)
      omega) (drawRow_spec clip ox ty row acc) (ih (ty + 1) (drawRow clip ox ty row acc) (by omega))
    have reach : ∀ q, ((∃ c < 8, spriteBit row c = true ∧ drawTarget clip (ox + c) ty = some q) ∨
        ∃ r c, ∃ h : r < rows.length, c < 8 ∧ spriteBit rows[r] c = true ∧
          drawTarget clip (ox + c) (ty + 1 + r) = some q) ↔
        ∃ r c, ∃ h : r < (row :: rows).length, c < 8 ∧ spriteBit (row :: rows)[r] c = true ∧
          drawTarget clip (ox + c) (ty + r) = some q := by
      intro q
      constructor
      · rintro (⟨c, hc, hb, ht⟩ | ⟨r, c, hr, hc, hb, ht⟩)
        · exact ⟨0, c, Nat.succ_pos _, hc, hb, ht⟩
        · exact ⟨r + 1, c, Nat.succ_lt_succ hr, hc, hb, by rwa [Nat.add_assoc, Nat.add_comm 1 r] at ht⟩
      · rintro ⟨r, c, hr, hc, hb, ht⟩
        cases r with
        | zero => exact .inl ⟨c, hc, hb, ht⟩
        | succ r =>
          exact .inr ⟨r, c, Nat.lt_of_succ_lt_succ hr, hc, hb, by rwa [Nat.add_assoc, Nat.add_comm 1 r]⟩
    simpa only [drawRows, reach] using both

end Sys2Proof.Machine
end

