-- ==== Sys2Proof/Tests/Slice0.lean ====
section
/-! SUPPORT. Tests of the model, and witnesses for the hypotheses of the statements. T<n> and P<n> are the vectors of
spec/95_test_vectors.md, S<n> the source document's own examples there; the words of the decode tests are written out
from the patterns of spec/30_encoding.md R75. -/

namespace Sys2Proof.Tests

open Sys2Proof.Machine

/-! ## Builders -/

/-- The reset state with some registers set. -/
def withRegs (rs : List (Reg × Byte)) : State := rs.foldl (fun s p => s.setReg p.1 p.2) State.reset

/-- The word placed at PC and run by one step; the check holds of the state after. -/
def runs (w : Word) (s : State) (check : State → Bool) : Bool :=
  match step (s.placeWord w) with
  | .next t => check t
  | .fault _ => false
  | .refused _ => false

/-- The cells that are 1, as row-major indices in rising order (R28). -/
def litCells (fb : Framebuffer) (row : Fin 32) : List Nat :=
  ((List.finRange 64).filter fun x => fb.lit ⟨x, row⟩).map fun x => (Pixel.mk x row).cell

/-! ## WellFormed: ill-formed terms the check refuses (R76, R77) -/

theorem test_sys_is_not_cls : (Instr.sys 0x0E0#12).wellFormed = false := by decide
theorem test_sys_is_not_ret : (Instr.sys 0x0EE#12).wellFormed = false := by decide
theorem test_recognized_word_is_not_unrecognized :
    (Instr.unrecognized 0x8124#16).wellFormed = false ∧ (Instr.unrecognized 0x5120#16).wellFormed = false ∧
    (Instr.unrecognized 0x9120#16).wellFormed = false ∧ (Instr.unrecognized 0xE19E#16).wellFormed = false ∧
    (Instr.unrecognized 0xF165#16).wellFormed = false ∧ (Instr.unrecognized 0x0000#16).wellFormed = false := by decide

/-! ## Decode: one word per constructor, bit by bit from R75 -/

theorem test_decode_system :
    decode 0b0000000011100000#16 = .cls ∧ decode 0b0000000011101110#16 = .ret ∧
    decode 0b0000111011100000#16 = .sys 0xEE0#12 := by decide
theorem test_decode_address_forms :
    decode 0b0001101010111100#16 = .jp 0xABC#12 ∧ decode 0b0010001100000000#16 = .call 0x300#12 ∧
    decode 0b1010001011110000#16 = .ldI 0x2F0#12 ∧ decode 0b1011111111111110#16 = .jpV0 0xFFE#12 := by decide
theorem test_decode_immediate_forms :
    decode 0b0011001100101010#16 = .seImm 3 0x2A#8 ∧ decode 0b0100001100000001#16 = .sneImm 3 0x01#8 ∧
    decode 0b0110101001000010#16 = .ldImm 10 0x42#8 ∧ decode 0b0111000100000011#16 = .addImm 1 0x03#8 ∧
    decode 0b1100001100001111#16 = .rnd 3 0x0F#8 := by decide
theorem test_decode_register_skips :
    decode 0b0101000100100000#16 = .seReg 1 2 ∧ decode 0b1001000100100000#16 = .sneReg 1 2 := by decide
theorem test_decode_arithmetic :
    decode 0b1000000100100000#16 = .ldReg 1 2 ∧ decode 0b1000000100100001#16 = .orReg 1 2 ∧
    decode 0b1000000100100010#16 = .andReg 1 2 ∧ decode 0b1000000100100011#16 = .xorReg 1 2 ∧
    decode 0b1000000100100100#16 = .addReg 1 2 ∧ decode 0b1000000100100101#16 = .subReg 1 2 ∧
    decode 0b1000000100100110#16 = .shr 1 2 ∧ decode 0b1000000100100111#16 = .subn 1 2 ∧
    decode 0b1000000100101110#16 = .shl 1 2 := by decide
theorem test_decode_draw : decode 0b1101000111110101#16 = .drw 1 15 0x5#4 := by decide
theorem test_decode_keys :
    decode 0b1110000110011110#16 = .skp 1 ∧ decode 0b1110000110100001#16 = .sknp 1 := by decide
theorem test_decode_misc :
    decode 0b1111001100000111#16 = .ldVxDt 3 ∧ decode 0b1111010000001010#16 = .ldVxK 4 ∧
    decode 0b1111001100010101#16 = .ldDtVx 3 ∧ decode 0b1111001100011000#16 = .ldStVx 3 ∧
    decode 0b1111001000011110#16 = .addI 2 ∧ decode 0b1111001000101001#16 = .ldF 2 ∧
    decode 0b1111000000110011#16 = .ldB 0 ∧ decode 0b1111010101010101#16 = .storeRegs 5 ∧
    decode 0b1111010101100101#16 = .loadRegs 5 := by decide
/-- T90 to T96: the words just beside the recognized ones. -/
theorem test_decode_unrecognized :
    decode 0x5121#16 = .unrecognized 0x5121#16 ∧ decode 0x9121#16 = .unrecognized 0x9121#16 ∧
    decode 0x8128#16 = .unrecognized 0x8128#16 ∧ decode 0xE19F#16 = .unrecognized 0xE19F#16 ∧
    decode 0xFF75#16 = .unrecognized 0xFF75#16 ∧ decode 0x00FD#16 = .sys 0x0FD#12 := by decide
/-- S14: the byte at the lower address is the high byte. -/
theorem test_decode_bytes_big_endian : decodeBytes [0x12, 0x34, 0x56] = .ok (.jp 0x234#12, [0x56]) := by rfl
theorem test_decode_bytes_truncated : decodeBytes [0x12] = .error .truncated := by rfl
theorem test_decode_table_word : decodeTableWord 16 0xF565 = some (.loadRegs 5) := by decide

/-! ## One step: control flow -/

/-- T2: 01E0 is not CLS. -/
theorem test_sys : runs 0x01E0 (State.reset.setDisplay (State.reset.fb.toggle ⟨5, 0⟩))
    (fun t => t.pc == 0x202 && t.fb.lit ⟨5, 0⟩) = true := by decide
/-- T4, and the stale entry stays. -/
theorem test_ret : runs 0x00EE { State.reset with sp := 1, stack := State.reset.stack.set 0 0x0204 }
    (fun t => t.pc == 0x206 && t.sp == 0 && t.stack[0] == 0x0204) = true := by decide
/-- T6. -/
theorem test_ret_empty : runs 0x00EE State.reset (fun t => t.fault == some .stackUnderflow && t.pc == 0x200) = true := by
  decide
/-- T8. -/
theorem test_jp : runs 0x1FFF State.reset (fun t => t.pc == 0xFFF && t.fault == none) = true := by decide
/-- T9. -/
theorem test_call : runs 0x2300 (State.reset.setPc 0x204)
    (fun t => t.stack[0] == 0x0204 && t.sp == 1 && t.pc == 0x300) = true := by decide
/-- T9b. -/
theorem test_call_full : runs 0x2300 { State.reset with sp := 16 }
    (fun t => t.fault == some .stackOverflow && t.sp == 16 && t.pc == 0x200) = true := by decide
/-- T10, T11. -/
theorem test_se_imm : runs 0x332A (withRegs [(3, 0x2A)]) (fun t => t.pc == 0x204) = true ∧
    runs 0x332B (withRegs [(3, 0x2A)]) (fun t => t.pc == 0x202) = true := by decide
/-- T12, T13. -/
theorem test_sne_imm : runs 0x432A (withRegs [(3, 0x2A)]) (fun t => t.pc == 0x202) = true ∧
    runs 0x4300 (withRegs [(3, 0x2A)]) (fun t => t.pc == 0x204) = true := by decide
/-- T14, T15. -/
theorem test_se_reg : runs 0x5120 (withRegs [(1, 7), (2, 7)]) (fun t => t.pc == 0x204) = true ∧
    runs 0x5120 (withRegs [(1, 7), (2, 8)]) (fun t => t.pc == 0x202) = true := by decide
/-- T17, T18. -/
theorem test_sne_reg : runs 0x9120 (withRegs [(1, 7), (2, 8)]) (fun t => t.pc == 0x204) = true ∧
    runs 0x9120 (withRegs [(1, 7), (2, 7)]) (fun t => t.pc == 0x202) = true := by decide
/-- T20: V0, not VX. -/
theorem test_jp_v0 : runs 0xB300 (withRegs [(0, 1), (3, 9)]) (fun t => t.pc == 0x301) = true := by decide
/-- T21: no mask to 12 bits. -/
theorem test_jp_v0_unmasked : runs 0xBFFF (withRegs [(0, 0xFF)]) (fun t => t.pc == 0x10FE) = true := by decide
/-- T92. -/
theorem test_unrecognized : runs 0x8128 (withRegs [(1, 1), (2, 2), (15, 1)])
    (fun t => t.pc == 0x202 && t.reg 1 == 1 && t.reg 15 == 1) = true := by decide
/-- T24 and T1: the fetch bound, and the diagnostic of SYS. -/
theorem test_fetch_bound : step (State.reset.setPc 0xFFF) =
      .next ((State.reset.setPc 0xFFF).withFault (.pcOutOfBounds 0xFFF)) ∧
    stepDiag State.reset = .sys 0x0000 := ⟨by rfl, by decide⟩

/-! ## One step: registers and arithmetic -/

/-- T30. -/
theorem test_ld_imm : runs 0x6A42 State.reset (fun t => t.reg 10 == 0x42 && t.pc == 0x202) = true := by decide
/-- T32: no flag. -/
theorem test_add_imm : runs 0x7103 (withRegs [(1, 0xFE), (15, 1)]) (fun t => t.reg 1 == 1 && t.reg 15 == 1) = true := by
  decide
/-- T34. -/
theorem test_ld_reg : runs 0x8120 (withRegs [(2, 0x33), (15, 1)]) (fun t => t.reg 1 == 0x33 && t.reg 15 == 1) = true := by
  decide
/-- T35, T35b. -/
theorem test_or : runs 0x8121 (withRegs [(1, 0x0F), (2, 0xF0), (15, 1)]) (fun t => t.reg 1 == 0xFF && t.reg 15 == 0) =
      true ∧
    runs 0x81F1 (withRegs [(1, 0x10), (15, 1)]) (fun t => t.reg 1 == 0x11 && t.reg 15 == 0) = true := by decide
/-- T36. -/
theorem test_and : runs 0x8122 (withRegs [(1, 0x3C), (2, 0x0F), (15, 1)])
    (fun t => t.reg 1 == 0x0C && t.reg 15 == 0) = true := by decide
/-- T37. -/
theorem test_xor : runs 0x8123 (withRegs [(1, 0xFF), (2, 0x0F), (15, 1)])
    (fun t => t.reg 1 == 0xF0 && t.reg 15 == 0) = true := by decide
/-- T38 (S3). -/
theorem test_add : runs 0x8124 (withRegs [(1, 0xFF), (2, 1)]) (fun t => t.reg 1 == 0 && t.reg 15 == 1) = true := by
  decide
/-- T42: X = F, the flag is written last. -/
theorem test_add_into_flag : runs 0x8F24 (withRegs [(15, 0xFF), (2, 2)]) (fun t => t.reg 15 == 1) = true := by decide
/-- T44 (S4), T46. -/
theorem test_sub : runs 0x8125 (withRegs [(1, 1), (2, 2)]) (fun t => t.reg 1 == 0xFF && t.reg 15 == 0) = true ∧
    runs 0x8125 (withRegs [(1, 5), (2, 5)]) (fun t => t.reg 1 == 0 && t.reg 15 == 1) = true := by decide
/-- T48. -/
theorem test_subn : runs 0x8127 (withRegs [(1, 3), (2, 0x0A)]) (fun t => t.reg 1 == 7 && t.reg 15 == 1) = true := by
  decide
/-- T50: VY is shifted. -/
theorem test_shr : runs 0x8126 (withRegs [(1, 0xEE), (2, 5)])
    (fun t => t.reg 1 == 2 && t.reg 2 == 5 && t.reg 15 == 1) = true := by decide
/-- T53. -/
theorem test_shr_into_flag : runs 0x8F26 (withRegs [(2, 3)]) (fun t => t.reg 15 == 0) = true := by decide
/-- T54. -/
theorem test_shl : runs 0x812E (withRegs [(2, 0x81)])
    (fun t => t.reg 1 == 2 && t.reg 2 == 0x81 && t.reg 15 == 1) = true := by decide
/-- R131's example: rnd = B7 gives 07. -/
theorem test_rnd : (rndInto 0xB7 3 0x0F State.reset).reg 3 = 0x07 := by decide

/-! ## One step: index register and memory -/

/-- R140's example. -/
theorem test_ld_i : runs 0xA2F0 State.reset (fun t => t.i == 0x2F0) = true := by decide
/-- R141's corner cases. -/
theorem test_add_i : runs 0xF21E ((withRegs [(2, 1)]).setI 0x0FFF) (fun t => t.i == 0x1000 && t.reg 15 == 0) = true ∧
    runs 0xF21E ((withRegs [(2, 1)]).setI 0xFFFF) (fun t => t.i == 0 && t.reg 15 == 0) = true := by decide
/-- R142's example: the high nibble is ignored. -/
theorem test_ld_f : runs 0xF029 (withRegs [(0, 0x3A)]) (fun t => t.i == 50) = true := by decide
/-- S5 (T76). -/
theorem test_bcd : runs 0xF033 ((withRegs [(0, 255)]).setI 0x300)
    (fun t => t.readBytes 0x300 4 == [2, 5, 5, 0] && t.i == 0x300) = true := by decide
/-- R55: the whole range is checked first. -/
theorem test_bcd_range : runs 0xF033 ((withRegs [(0, 255)]).setI 4094)
    (fun t => t.fault == some (.memOutOfBounds 4096) && t.readBytes 4094 2 == [0, 0]) = true := by decide
/-- P6, step 2: V2 is not stored. -/
theorem test_store_regs : runs 0xF155 ((withRegs [(0, 0x11), (1, 0x22), (2, 0x33)]).setI 0x300)
    (fun t => t.readBytes 0x300 3 == [0x11, 0x22, 0] && t.i == 0x302) = true := by decide
/-- P2, step 5: registers above X are kept. -/
theorem test_load_regs : runs 0xF165 (((withRegs [(2, 0x77)]).setI 0x300).storeBytes 0x300 [2, 5, 4])
    (fun t => t.reg 0 == 2 && t.reg 1 == 5 && t.reg 2 == 0x77 && t.i == 0x302) = true := by decide

/-! ## One step: display -/

/-- S2 (T60). -/
theorem test_cls : runs 0x00E0 { State.reset with fb := State.reset.fb.toggle ⟨63, 31⟩ }
    (fun t => t.fb == Framebuffer.clear && t.draw) = true := by decide
/-- P3, step 4: clipping at the right and the lower edge. -/
theorem test_drw_clips :
    runs 0xD012 (((withRegs [(0, 60), (1, 31)]).setI 0x210).storeBytes 0x210 [0xFF, 0xFF])
      (fun t => litCells t.fb 31 == [2044, 2045, 2046, 2047] && litCells t.fb 0 == [] && t.reg 15 == 0) = true := by
  decide
/-- P3, step 6: wrapping from an off-screen origin; the most significant bit is the leftmost column (R152). -/
theorem test_drw_wraps :
    runs 0xD012 (((withRegs [(0, 70), (1, 31)]).setI 0x210).storeBytes 0x210 [0x80, 0x81])
      (fun t => litCells t.fb 31 == [1990] && litCells t.fb 0 == [6, 13] && t.draw) = true := by decide

/-! ## One step: keypad, timers, boundary -/

/-- T100b, T101. -/
theorem test_skp : runs 0xE19E { withRegs [(1, 0x0F)] with keys := 0x8000 } (fun t => t.pc == 0x204) = true ∧
    runs 0xE19E { withRegs [(1, 0x10)] with keys := 0xFFFF }
      (fun t => t.fault == some (.keyIndexOutOfBounds 0x10) && t.pc == 0x200) = true := by decide
/-- T102, T102a. -/
theorem test_sknp : runs 0xE1A1 { withRegs [(1, 5)] with keys := 0x0020 } (fun t => t.pc == 0x202) = true ∧
    runs 0xE1A1 (withRegs [(1, 5)]) (fun t => t.pc == 0x204) = true := by decide
/-- T108: the lowest key with the edge. -/
theorem test_ld_key : runs 0xF40A { withRegs [(4, 0x77)] with keys := 0x0002, prev := 0x8202 }
    (fun t => t.reg 4 == 9 && t.pc == 0x202) = true := by decide
/-- T106. -/
theorem test_ld_key_waits : runs 0xF40A { withRegs [(4, 0x77)] with keys := 0x0008, prev := 0x0008 }
    (fun t => t.reg 4 == 0x77 && t.pc == 0x200) = true := by decide
/-- T115. -/
theorem test_ld_dt : runs 0xF307 (State.reset.setDt 0x2A) (fun t => t.reg 3 == 0x2A && t.dt == 0x2A) = true := by decide
/-- T116. -/
theorem test_set_dt : runs 0xF315 (withRegs [(3, 0x10)]) (fun t => t.dt == 0x10 && t.st == 0) = true := by decide
/-- T117. -/
theorem test_set_st : runs 0xF318 (withRegs [(3, 0x10)]) (fun t => t.st == 0x10 && !t.beep) = true := by decide
/-- T122 (S10) and T123. -/
theorem test_tick :
    ((State.reset.setDt 1).setSt 1).tick = { State.reset with beep := true } ∧
    ({ State.reset.setDt 5 with beep := true } : State).tick = State.reset.setDt 4 := by decide
/-- T112. -/
theorem test_capture :
    (({ State.reset with keys := 0x00F0, prev := 0x000F } : State).capture 0x0A0A).keys = 0x0A0A ∧
    (({ State.reset with keys := 0x00F0, prev := 0x000F } : State).capture 0x0A0A).prev = 0x00F0 := by decide
/-- R38: glyphs 0 and F of the default font, and the zeros behind it (R37). -/
theorem test_default_font : State.reset.readBytes 0 5 = [0xF0, 0x90, 0x90, 0x90, 0xF0] ∧
    State.reset.readBytes 75 6 = [0xF0, 0x80, 0xF0, 0x80, 0x80, 0] := by decide
/-- T132, and a program's first word lands at 512. -/
theorem test_load : State.reset.load [] = (true, State.reset) ∧
    ((State.reset.load [0x12, 0x34]).2).fetchWord = 0x1234 := by decide
/-- R201: a second load is outside its window. -/
theorem test_second_load_is_refused :
    Session.run [.load [0x12], .load [0x34]] (Session.start defaultFont) = .refused .loadOutsideBoot := by rfl

/-! ## Witnesses: for each statement with hypotheses, states and operands that meet them, clause by clause -/

theorem witness_DecodeOfEncode :
    (Instr.sys 0xFFF#12).wellFormed = true ∧ (Instr.drw 15 15 0xF#4).wellFormed = true ∧
    (Instr.unrecognized 0x5001#16).wellFormed = true := by decide

/-- The last word of memory, holding 00EE. -/
def atLastWord : State := (State.reset.setPc 4094).placeWord 0x00EE

theorem witness_StepRunsDecodedInstruction :
    Instr.ret.wellFormed = true ∧ atLastWord.fault = none ∧ atLastWord.pc.toNat = 4094 ∧
    atLastWord.readByte atLastWord.pc.toNat = highByte (encode .ret) ∧
    atLastWord.readByte (atLastWord.pc.toNat + 1) = lowByte (encode .ret) := by decide

theorem witness_PlacedWordIsRunNext :
    (State.reset.setPc 4095).mem.wf (State.reset.setPc 4095).font = true ∧ (State.reset.setPc 4095).canFetch = false ∧
    atLastWord.mem.wf atLastWord.font = true ∧ atLastWord.canFetch = true := by decide

theorem witness_FaultedStepChangesNothing : (State.reset.withFault .stackOverflow).fault ≠ none := by decide

theorem witness_FetchBeyondMemoryFaults :
    (State.reset.setPc 4095).fault = none ∧ 4094 < (State.reset.setPc 4095).pc.toNat := by decide

theorem witness_RandomInputReadOnlyByRnd : ∀ x nn, decode atLastWord.fetchWord ≠ .rnd x nn := by
  have ret : decode atLastWord.fetchWord = .ret := by decide
  intro x nn; rw [ret]; nofun

theorem witness_DiagnosticOfStep :
    (State.reset.fault = none ∧ State.reset.pc.toNat ≤ 4094 ∧ decode State.reset.fetchWord = .sys 0) ∧
    ((State.reset.placeWord 0x5121).fault = none ∧ (State.reset.placeWord 0x5121).pc.toNat ≤ 4094 ∧
      decode (State.reset.placeWord 0x5121).fetchWord = .unrecognized 0x5121) ∧
    (atLastWord.fault = none ∧ atLastWord.pc.toNat ≤ 4094 ∧ decode atLastWord.fetchWord = .ret) ∧
    (State.reset.withFault .stackOverflow).fault ≠ none ∧ 4094 < (State.reset.setPc 4095).pc.toNat := by decide

theorem witness_InstructionFootprint : ∃ t, exec (.storeRegs 15) State.reset = .next t ∧ t.i = 16 := ⟨_, rfl, by decide⟩

theorem witness_OnlyListedInstructionsWriteFlag :
    (∃ t, exec (.loadRegs 14) State.reset = .next t) ∧ writesFlag (.loadRegs 14) = false ∧
    destination (.loadRegs 14) ≠ some VF ∧ Instr.loadRegs 14 ≠ .loadRegs VF := ⟨⟨_, rfl⟩, by decide⟩

/-- A stack with `n` entries, all 0x204. -/
def deep (n : Fin 17) : State := { State.reset with sp := n, stack := Vector.replicate 16 0x204 }

theorem witness_ProgramCounterTable :
    (deep 16).fault = none ∧ (∃ t, exec .ret (deep 16) = .next t ∧ t.fault = none) ∧
    (∃ t, exec (.call 0x300) (deep 15) = .next t ∧ t.fault = none) := ⟨by decide, ⟨_, rfl, rfl⟩, ⟨_, rfl, rfl⟩⟩

theorem witness_FaultsArePrecise :
    (deep 16).fault = none ∧ ∃ t, exec (.call 0x300) (deep 16) = .next t ∧ t.fault = some .stackOverflow :=
  ⟨by decide, _, rfl, by decide⟩

theorem witness_RedrawFlagCoversFramebuffer : ∃ t, step State.reset = .next t ∧ t.draw = false := ⟨_, rfl, by decide⟩

theorem witness_RetPopsAddressPlusTwo :
    (deep 0).sp = 0 ∧ (deep 1).sp.val = (0 : Fin 16).val + 1 ∧ (deep 16).sp.val = (15 : Fin 16).val + 1 := by decide

theorem witness_CallPushesOwnAddress :
    (deep 16).sp = 16 ∧ (deep 0).sp.val = (0 : Fin 16).val ∧ (deep 15).sp.val = (15 : Fin 16).val := by decide

theorem witness_CallThenRetResumesAfterCall : (deep 15).sp.val < 16 := by decide

/-- A jump to itself at the last even address. -/
def parkedState : State := (State.reset.setPc 4094).placeWord 0x1FFE

theorem witness_ParkedRunStaysParked : parkedState.Parked :=
  ⟨⟨by decide, by decide⟩, 0xFFE#12, by decide, by decide⟩

theorem witness_LogicForcesFlagToZero :
    ((Instr.orReg 1 2 = .orReg 1 2 ∧ or = or) ∧ (1 : Reg) ≠ VF) ∧ (Instr.andReg VF 2 = .andReg VF 2 ∧ and = and) ∧
    (Instr.xorReg 1 VF = .xorReg 1 VF ∧ xor = xor) := ⟨⟨⟨rfl, rfl⟩, by decide⟩, ⟨rfl, rfl⟩, ⟨rfl, rfl⟩⟩

theorem witness_AddSetsCarry : (0 : Reg) ≠ VF ∧ (14 : Reg) ≠ VF := by decide

theorem witness_SubtractionsSetNotBorrow :
    (Instr.subReg 1 2 = .subReg 1 2 ∧ (1 : Reg) ≠ VF) ∧ (Instr.subn VF 2 = .subn VF 2 ∧ (2 : Reg) = 2) := by decide

theorem witness_ShiftsTakeVy : (14 : Reg) ≠ VF ∧ (15 : Reg) = VF := by decide

theorem witness_BcdStoresDigits :
    (State.reset.setI 4093).mem.wf (State.reset.setI 4093).font = true ∧ (State.reset.setI 4093).i.toNat + 2 = 4095 := by decide

theorem witness_BlockStoreWritesRegisters :
    (State.reset.setI 4080).mem.wf (State.reset.setI 4080).font = true ∧ (State.reset.setI 4080).i.toNat + (15 : Reg).val = 4095 ∧
    (State.reset.setI 4095).mem.wf (State.reset.setI 4095).font = true ∧ (State.reset.setI 4095).i.toNat + (0 : Reg).val = 4095 := by decide

theorem witness_BlockLoadReadsRegisters :
    (State.reset.setI 4080).i.toNat + (15 : Reg).val = 4095 ∧ (0 : Reg) ≤ 15 ∧ (15 : Reg) ≤ 15 ∧
    (State.reset.setI 4095).i.toNat + (0 : Reg).val = 4095 ∧ (0 : Reg) < 1 := by decide

theorem witness_BlockStoreThenLoadRestores :
    (State.reset.setI 4080).mem.wf (State.reset.setI 4080).font = true ∧ (State.reset.setI 4080).i.toNat + (15 : Reg).val ≤ 4095 ∧
    ∃ t, exec (.storeRegs 15) (State.reset.setI 4080) = .next t ∧ (∀ a, (t.setI 4080).readByte a = t.readByte a) ∧
      (t.setI 4080).i = (State.reset.setI 4080).i := ⟨by decide, by decide, _, rfl, fun _ => rfl, rfl⟩

theorem witness_RangeOutsideMemoryFaults :
    (Instr.ldB 0 = .ldB 0 ∧ 4095 < (State.reset.setI 4094).i.toNat + 3 - 1) ∧
    (Instr.storeRegs 0 = .storeRegs 0 ∧ 4095 < (State.reset.setI 4096).i.toNat + ((0 : Reg).val + 1) - 1) ∧
    (Instr.loadRegs 15 = .loadRegs 15 ∧ 4095 < (State.reset.setI 4081).i.toNat + ((15 : Reg).val + 1) - 1) ∧
    (Instr.drw 0 0 1 = .drw 0 0 1 ∧ 0 < (1#4).toNat ∧ 4095 < (State.reset.setI 0xFFFF).i.toNat + (1#4).toNat - 1) := by
  decide

theorem witness_StoredBytesAreFetchedNext :
    ((State.reset.setPc 4092).setI 4094).mem.wf ((State.reset.setPc 4092).setI 4094).font = true ∧
    ((State.reset.setPc 4092).setI 4094).i = ((State.reset.setPc 4092).setI 4094).pc + 2 ∧
    ((State.reset.setPc 4092).setI 4094).pc.toNat + 3 = 4095 := by decide

/-- A one-pixel sprite at address 512. -/
def spriteState : State := (State.reset.setI 512).storeBytes 512 [0x80]

theorem spriteState_dark (p : Pixel) : spriteState.fb.lit p = false := by
  simp [spriteState, State.storeBytes, State.setI, State.reset, State.resetWith, Framebuffer.lit, Framebuffer.clear]

theorem spriteState_touches : Covered spriteState 0 0 1 ⟨0, 0⟩ := ⟨0, 0, by decide, by decide, by decide, by decide⟩

/-- The range at its bound and an empty sprite with I beyond memory; a sprite on a lit pixel, and one on dark pixels. -/
theorem witness_DrwIsXorOfSpritePicture :
    (0x0#4).toNat = 0 ∧ (State.reset.setI 4081).i.toNat + (0xF#4).toNat - 1 = 4095 ∧
    (spriteState.i.toNat + (1#4).toNat - 1 ≤ 4095 ∧
      ∃ p, Covered (spriteState.setDisplay (spriteState.fb.toggle ⟨0, 0⟩)) 0 0 1 p ∧
        (spriteState.setDisplay (spriteState.fb.toggle ⟨0, 0⟩)).fb.lit p = true) ∧
    ∀ p, Covered spriteState 0 0 1 p → spriteState.fb.lit p = false :=
  ⟨by decide, by decide, ⟨by decide, ⟨0, 0⟩, spriteState_touches, by decide⟩, fun p _ => spriteState_dark p⟩

/-- Once with other registers as coordinates, once with VF for both, where the first draw leaves VF 0. -/
theorem witness_DrawingTwiceRestores :
    spriteState.i.toNat + (1#4).toNat - 1 ≤ 4095 ∧
    (∃ t u, exec (.drw 0 0 1) spriteState = .next t ∧ exec (.drw 0 0 1) t = .next u) ∧
    (∃ t u, exec (.drw VF VF 1) spriteState = .next t ∧ exec (.drw VF VF 1) t = .next u ∧
      t.reg VF = spriteState.reg VF) ∧
    (∃ p, Covered spriteState 0 0 1 p) ∧ ∀ p, Covered spriteState 0 0 1 p → spriteState.fb.lit p = false :=
  ⟨by decide, ⟨_, _, rfl, rfl⟩, ⟨_, _, rfl, rfl, by decide⟩, ⟨_, spriteState_touches⟩, fun p _ => spriteState_dark p⟩

theorem witness_KeySkipsTestLevel :
    ((withRegs [(1, 15)]).reg 1).toNat ≤ 15 ∧ 15 < ((withRegs [(1, 16)]).reg 1).toNat := by decide

/-- Key 9 released, keys 1 and 15 not. -/
def released : State := { State.reset with keys := 0x8002, prev := 0x8202 }

theorem witness_KeyWaitTakesLowestReleasedKey :
    (released.keys.getLsbD 9 = false ∧ released.prev.getLsbD 9 = true ∧
      ∀ j < 9, ¬(released.keys.getLsbD j = false ∧ released.prev.getLsbD j = true)) ∧
    ∀ k < 16, ¬(State.reset.keys.getLsbD k = false ∧ State.reset.prev.getLsbD k = true) := by decide

/-- LD V4, K waiting, with key 3 held. -/
def waiting : State := ({ State.reset with keys := 0x0008, prev := 0x0008 } : State).placeWord 0xF40A

theorem witness_ArmedKeyWaitStays : waiting.Armed 4 ∧
    ∀ k < 16, ¬(waiting.keys.getLsbD k = false ∧ waiting.prev.getLsbD k = true) :=
  ⟨⟨⟨by decide, by decide⟩, by decide⟩, by decide⟩

/-- Another font than the default, and what reset makes of it. -/
theorem witness_ResetState :
    ∃ t, t = (State.resetWith (Vector.replicate 80 0xAA)).resetAgain ∧ t.readByte 79 = 0xAA ∧ t.readByte 80 = 0 :=
  ⟨_, rfl, by decide, by decide⟩

theorem witness_LoadCopiesOrRejects :
    State.reset.mem.wf State.reset.font = true ∧ (List.replicate 3584 (1 : Byte)).length ≤ 3584 ∧
    3584 < (List.replicate 3585 (1 : Byte)).length :=
  ⟨by decide, Nat.le_of_eq (List.length_replicate ..), by rw [List.length_replicate]; decide⟩

theorem witness_StepKeepsInvariant : parkedState.Inv ∧ ∃ t, step parkedState = .next t :=
  ⟨⟨by decide, by unfold State.StackInv; decide, by decide⟩, _, rfl⟩

theorem witness_BoundaryKeepsInvariant :
    (Session.mk parkedState .running .none).state.Inv ∧
    ∃ b, (Session.mk parkedState .running .none).apply (.step 0) = .next b :=
  ⟨witness_StepKeepsInvariant.1, _, rfl⟩

end Sys2Proof.Tests
end

/-! SUPPORT. The obligations of spec/00_scope.md: precise faults (R11), unrecognized words (R111), the state after reset
(R37), and the invariant of R40 kept by every boundary operation (R8). -/

namespace Sys2Proof.Machine

variable {s t : State}

/-! ## Postconditions: what holds of every next state a result can answer -/

/-- Every next state that `r` answers satisfies `P`. -/
def Ensures (P : State → Prop) (r : Result) : Prop := ∀ t, r = .next t → P t

section
variable {P : State → Prop}

theorem ensures_next (h : P s) : Ensures P (.next s) := by
  rintro t ⟨⟩
  exact h

theorem ensures_raise {f : Fault} (h : P (s.withFault f)) : Ensures P (raise f s) := ensures_next h

theorem ensures_withRange {len : Nat} {go : Result} (hfault : ∀ f, P (s.withFault f))
    (hgo : s.InRange len → Ensures P go) : Ensures P (withRange s len go) := by
  by_cases hr : s.InRange len
  · rw [withRange_inRange hr]
    exact hgo hr
  · rw [withRange_outOfRange hr]
    exact ensures_raise (hfault _)

theorem ensures_withPush {a : Word} {go : State → Result} (hfault : ∀ f, P (s.withFault f))
    (hgo : ∀ h : s.sp.val < 16,
      Ensures P (go { s with stack := s.stack.set s.sp.val a h, sp := ⟨s.sp.val + 1, by omega⟩ })) :
    Ensures P (withPush s a go) := by
  obtain ⟨h, e⟩ | ⟨-, e⟩ := withPush_cases a go <;> rw [e]
  · exact hgo h
  · exact ensures_raise (hfault _)

theorem ensures_withPop {go : State → Word → Result} (hfault : ∀ f, P (s.withFault f))
    (hgo : ∀ h : 0 < s.sp.val,
      Ensures P (go { s with sp := ⟨s.sp.val - 1, by omega⟩ } (s.stack[s.sp.val - 1]'(by omega)))) :
    Ensures P (withPop s go) := by
  obtain ⟨h, e⟩ | ⟨-, e⟩ := withPop_cases go <;> rw [e]
  · exact hgo h
  · exact ensures_raise (hfault _)

theorem ensures_withKey {x : Reg} {go : Nat → Result} (hfault : ∀ f, P (s.withFault f)) (hgo : ∀ k, Ensures P (go k)) :
    Ensures P (withKey s x go) := by
  obtain ⟨-, e⟩ | ⟨-, e⟩ := withKey_cases x go <;> rw [e]
  · exact hgo _
  · exact ensures_raise (hfault _)

/-- FX0A takes a key or waits in the same state (R163). -/
theorem ensures_execLdVxK {x : Reg} (htake : ∀ k, P (s.setReg x (BitVec.ofNat 8 k)).advance) (hwait : P s) :
    Ensures P (execLdVxK x s) := by
  unfold execLdVxK
  split
  · exact ensures_next (htake _)
  · exact ensures_next hwait

theorem ensures_fetchExecute {run : Instr → State → Result} (hstay : P s) (hfault : ∀ f, P (s.withFault f))
    (hrun : s.fault = none → s.canFetch = true → Ensures P (run (decode s.fetchWord) s)) :
    Ensures P (fetchExecute run s) := by
  by_cases hf : s.fault = none
  · cases hp : s.canFetch
    · rw [fetchExecute_pcOut hf hp]
      exact ensures_raise (hfault _)
    · rw [fetchExecute_running hf hp]
      exact hrun hf hp
  · rw [fetchExecute_faulted hf]
    exact ensures_next hstay

end

/-! ## Frames -/

theorem withFault_changesOnly (f : Fault) : ChangesOnly [.fault] s (s.withFault f) := by
  intro c hc
  cases c with
  | fault => exact absurd (List.mem_singleton_self _) hc
  | v | mem | fb => exact fun _ => rfl
  | _ => rfl

theorem setPc_changesOnly (a : Word) : ChangesOnly [.pc] s (s.setPc a) := by
  intro c hc
  cases c with
  | pc => exact absurd (List.mem_singleton_self _) hc
  | v | mem | fb => exact fun _ => rfl
  | _ => rfl

theorem setPc_self : s.setPc s.pc = s := rfl

/-! ## Precise faults (R11, R182) -/

/-- `t` follows from `s` without a change of FAULT, or by a raised fault and nothing else. -/
def FaultPrecise (s t : State) : Prop := t.fault = s.fault ∨ ∃ f, t = s.withFault f

theorem faultPrecise_withFault (f : Fault) : FaultPrecise s (s.withFault f) := .inr ⟨f, rfl⟩

/-- The shared checks raise before anything is written, and past them no instruction writes FAULT. -/
theorem exec_faultPrecise (i : Instr) (s : State) : Ensures (FaultPrecise s) (exec i s) := by
  unfold exec
  cases i with
  | ret =>
    refine ensures_withPop faultPrecise_withFault fun _ => ensures_next (.inl ?_)
    rfl
  | call =>
    refine ensures_withPush faultPrecise_withFault fun _ => ensures_next (.inl ?_)
    rfl
  | skp | sknp =>
    refine ensures_withKey faultPrecise_withFault fun _ => ensures_next (.inl ?_)
    rfl
  | drw | ldB | storeRegs | loadRegs =>
    refine ensures_withRange faultPrecise_withFault fun _ => ensures_next (.inl ?_)
    simp
  | ldVxK => exact ensures_execLdVxK (fun _ => .inl rfl) (.inl rfl)
  | _ => exact ensures_next (.inl rfl)

/-- Settles O16: of the two ways an instruction can treat FAULT, only the raise leaves a fault where none was. -/
theorem faultsArePrecise : Obligations.FaultsArePrecise := by
  intro i s t f hnone hexec hfault
  obtain hsame | ⟨g, rfl⟩ := exec_faultPrecise i s t hexec
  · rw [hsame, hnone] at hfault
    contradiction
  · exact withFault_changesOnly g

/-! ## Unrecognized words (R111) -/

/-- Settles O26: under both policies the next state is the old one with PC written. -/
theorem unrecognizedWordContinues : Obligations.UnrecognizedWordContinues := by
  refine ⟨fun _ s => ⟨s.advance, rfl, rfl, setPc_changesOnly _⟩, fun p s => ?_⟩
  cases p with
  | advance2 => exact ⟨s.advance, rfl, .inl rfl, setPc_changesOnly _⟩
  | hold => exact ⟨s.setPc s.pc, by rw [setPc_self]; rfl, .inr rfl, setPc_changesOnly _⟩

/-! ## The state after reset (R37, R200) -/

section
variable (font : Config.Font)

@[simp] theorem resetWith_reg (r : Reg) : (State.resetWith font).reg r = 0 := by
  simp [State.resetWith, State.reg]

@[simp] theorem resetWith_stack (k : Fin 16) : (State.resetWith font).stack[k] = 0 := by
  simp [State.resetWith]

@[simp] theorem resetWith_readByte (a : Nat) : (State.resetWith font).readByte a = resetByte font a := rfl

@[simp] theorem resetWith_lit (p : Pixel) : (State.resetWith font).fb.lit p = false := Framebuffer.lit_clear p

end

/-- Settles O53: the arrays are read element by element, every other element is the one `resetWith` names. -/
theorem resetState : Obligations.ResetState := by
  refine ⟨?_, fun font => ⟨rfl, rfl⟩⟩
  rintro s _ rfl
  exact ⟨resetWith_reg _, rfl, rfl, resetWith_stack _, rfl, resetByte_font, fun _ => resetByte_above, resetWith_lit _,
    rfl, rfl, rfl, rfl, rfl, rfl, rfl, rfl⟩

/-! ## The invariant (R40) -/

/-- The invariant reads memory, the stack and PC only: an update of anything else keeps it. -/
theorem State.Inv.of_eq (hs : s.Inv) (hpc : t.pc.toNat ≤ 0x10FE) (hmem : t.mem = s.mem := by rfl)
    (hfont : t.font = s.font := by rfl) (hstack : t.stack = s.stack := by rfl) (hsp : t.sp = s.sp := by rfl) : t.Inv where
  memory := by rw [hmem, hfont]; exact hs.memory
  stack := by unfold State.StackInv; rw [hstack, hsp]; exact hs.stack
  pc := hpc

theorem State.Inv.withFault (hs : s.Inv) (f : Fault) : (s.withFault f).Inv := hs.of_eq hs.pc

theorem State.Inv.setPc (hs : s.Inv) {a : Word} (ha : a.toNat ≤ 0x10FE) : (s.setPc a).Inv := hs.of_eq ha

theorem State.Inv.storeBytes (hs : s.Inv) {a : Nat} {bs : List Byte} (ha : bs = [] ∨ a + bs.length ≤ Config.memSize) :
    (s.storeBytes a bs).Inv where
  memory := Memory.wf_writeList hs.memory ha
  stack := hs.stack
  pc := hs.pc

theorem State.Inv.loadRegsUpTo (hs : s.Inv) (x : Reg) : (s.loadRegsUpTo x).Inv :=
  hs.of_eq (by rw [State.loadRegsUpTo_pc]; exact hs.pc) (State.loadRegsUpTo_mem s x) (State.loadRegsUpTo_font s x)
    (State.loadRegsUpTo_stack s x) (State.loadRegsUpTo_sp s x)

theorem State.Inv.bumpI (hs : s.Inv) (x : Reg) : (s.bumpI x).Inv := hs.of_eq hs.pc

/-- Pushing the address of a fetched word (R105). -/
theorem State.Inv.push (hs : s.Inv) {a : Word} (ha : a.toNat + 1 < Config.memSize) (h : s.sp.val < 16) :
    State.Inv { s with stack := s.stack.set s.sp.val a h, sp := ⟨s.sp.val + 1, by omega⟩ } where
  memory := hs.memory
  stack := by
    intro k hk
    have hk' : k.val < s.sp.val + 1 := hk
    by_cases heq : s.sp.val = k.val
    · simpa [Vector.getElem_set, heq] using ha
    · simpa [Vector.getElem_set, heq] using hs.stack k (by omega)
  pc := hs.pc

/-- Popping an entry (R103): those left in use were in use before. -/
theorem State.Inv.pop (hs : s.Inv) : State.Inv { s with sp := ⟨s.sp.val - 1, by omega⟩ } where
  memory := hs.memory
  stack k hk := hs.stack k (Nat.lt_of_lt_of_le hk (Nat.sub_le _ _))
  pc := hs.pc

theorem State.Inv.top (hs : s.Inv) (h : 0 < s.sp.val) :
    (s.stack[s.sp.val - 1]'(by omega)).toNat + 1 < Config.memSize :=
  hs.stack ⟨s.sp.val - 1, by omega⟩ (Nat.sub_lt h Nat.one_pos)

theorem resetWith_inv (font : Config.Font) : (State.resetWith font).Inv where
  memory := rfl
  stack k hk := absurd hk (Nat.not_lt_zero _)
  pc := show (BitVec.ofNat 16 Config.progBase).toNat ≤ 0x10FE by decide

/-! ### Targets of PC (R101) -/

theorem canFetch_iff : s.canFetch = true ↔ s.pc.toNat + 1 < Config.memSize := by simp [State.canFetch]

/-- From a fetchable address, PC + 2 and PC + 4 stay below the bound. -/
theorem fetchable_add_le {a b : Word} (ha : a.toNat + 1 < Config.memSize) (hb : b.toNat ≤ 4) : (a + b).toNat ≤ 0x10FE := by
  have hsize : Config.memSize = 4096 := rfl
  rw [BitVec.toNat_add]
  omega

theorem zextAddr_le (nnn : BitVec 12) : (zextAddr nnn).toNat ≤ 0x10FE := by
  rw [zextAddr, BitVec.toNat_setWidth]
  omega

/-- The largest target of BNNN is 0xFFF + 0xFF (R110). -/
theorem zextAddr_add_zextByte_le (nnn : BitVec 12) (b : Byte) : (zextAddr nnn + zextByte b).toNat ≤ 0x10FE := by
  rw [BitVec.toNat_add, zextAddr, zextByte, BitVec.toNat_setWidth, BitVec.toNat_setWidth]
  omega

/-! ### Instructions -/

theorem State.Inv.advance (hs : s.Inv) (hc : s.pc.toNat + 1 < Config.memSize) : s.advance.Inv :=
  hs.setPc (fetchable_add_le hc (by decide))

theorem State.Inv.skipIf (hs : s.Inv) (hc : s.pc.toNat + 1 < Config.memSize) (taken : Bool) : (s.skipIf taken).Inv := by
  cases taken
  · exact hs.setPc (fetchable_add_le hc (by decide))
  · exact hs.setPc (fetchable_add_le hc (by decide))

theorem length_decimalDigits (b : Byte) : (decimalDigits b).length = 3 := rfl

theorem length_regsUpTo (x : Reg) : (s.regsUpTo x).length = x.val + 1 := by
  simp [State.regsUpTo]

/-- FX33 and FX55 store a block whose range has been checked. -/
theorem State.InRange.storeBytes_fits {len : Nat} (h : s.InRange len) {bs : List Byte} (hlen : bs.length = len) :
    bs = [] ∨ s.i.toNat + bs.length ≤ Config.memSize := by
  subst hlen
  exact h.imp_left List.length_eq_zero_iff.mp

/-- An instruction run from a fetchable PC keeps the invariant: the memory instructions have checked their range, CALL
pushes the address it was fetched from, RET resumes behind such an address, and every other PC is PC, PC + 2, PC + 4 or
the target of a jump. -/
theorem exec_keepsInv (i : Instr) (hs : s.Inv) (hfetch : s.canFetch = true) : Ensures State.Inv (exec i s) := by
  have hc := canFetch_iff.mp hfetch
  have hstep : (2 : Word).toNat ≤ 4 := by decide
  have hnext : (s.pc + 2).toNat ≤ 0x10FE := fetchable_add_le hc hstep
  unfold exec
  cases i with
  | ret =>
    refine ensures_withPop hs.withFault fun h => ?_
    exact ensures_next (hs.pop.setPc (fetchable_add_le (hs.top h) hstep))
  | call nnn =>
    refine ensures_withPush hs.withFault fun h => ?_
    exact ensures_next ((hs.push hc h).setPc (zextAddr_le nnn))
  | jp nnn => exact ensures_next (hs.setPc (zextAddr_le nnn))
  | jpV0 nnn => exact ensures_next (hs.setPc (zextAddr_add_zextByte_le nnn _))
  | seImm | sneImm | seReg | sneReg => exact ensures_next (hs.skipIf hc _)
  | skp | sknp =>
    refine ensures_withKey hs.withFault fun _ => ?_
    exact ensures_next (hs.skipIf hc _)
  | ldB x =>
    refine ensures_withRange hs.withFault fun h => ?_
    exact ensures_next ((hs.storeBytes (h.storeBytes_fits (length_decimalDigits _))).advance hc)
  | storeRegs x =>
    refine ensures_withRange hs.withFault fun h => ?_
    exact ensures_next (((hs.storeBytes (h.storeBytes_fits (length_regsUpTo x))).bumpI x).advance hc)
  | loadRegs x =>
    refine ensures_withRange hs.withFault fun _ => ?_
    exact ensures_next (((hs.loadRegsUpTo x).bumpI x).advance (by simpa using hc))
  | drw =>
    refine ensures_withRange hs.withFault fun _ => ?_
    exact ensures_next (hs.of_eq hnext)
  | ldVxK => exact ensures_execLdVxK (fun _ => hs.of_eq hnext) hs
  | _ => exact ensures_next (hs.of_eq hnext)

/-- Only CXNN reads the byte the surroundings present (R131). -/
theorem execWithRnd_cases (rnd : Byte) (i : Instr) (s : State) :
    (∃ x nn, i = .rnd x nn ∧ execWithRnd rnd i s = .next (rndInto rnd x nn s)) ∨ execWithRnd rnd i s = exec i s := by
  cases i with
  | rnd x nn => exact .inl ⟨x, nn, rfl, rfl⟩
  | _ => exact .inr rfl

theorem execWithRnd_keepsInv (rnd : Byte) (i : Instr) (hs : s.Inv) (hfetch : s.canFetch = true) :
    Ensures State.Inv (execWithRnd rnd i s) := by
  obtain ⟨x, nn, -, e⟩ | e := execWithRnd_cases rnd i s <;> rw [e]
  · exact ensures_next (hs.of_eq (fetchable_add_le (canFetch_iff.mp hfetch) (by decide)))
  · exact exec_keepsInv i hs hfetch

theorem stepWithRnd_keepsInv (rnd : Byte) (hs : s.Inv) : Ensures State.Inv (stepWithRnd rnd s) :=
  ensures_fetchExecute hs hs.withFault fun _ => execWithRnd_keepsInv rnd _ hs

/-! ### Boundary operations -/

/-- Up to 3584 bytes from 512 fit into memory; a longer program is not stored (R201). -/
theorem State.Inv.load (hs : s.Inv) (bytes : List Byte) : (s.load bytes).2.Inv := by
  unfold State.load
  split
  · exact hs
  · rename_i hlen
    have hroom : Config.progBase + Config.romMax = Config.memSize := rfl
    exact hs.storeBytes (.inr (by omega))

/-- A performed load is the state operation (R201). -/
theorem Session.apply_load {bytes : List Byte} {a b : Session} (h : a.apply (.load bytes) = .next b) :
    b.state = (a.state.load bytes).2 := by
  simp only [Session.apply] at h
  split at h
  · cases h; rfl
  · cases h

/-- A performed step is the state operation (R100). -/
theorem Session.apply_step {rnd : Byte} {a b : Session} (h : a.apply (.step rnd) = .next b) :
    stepWithRnd rnd a.state = .next b.state := by
  simp only [Session.apply] at h
  split at h
  · rename_i e
    cases h
    exact e
  · cases h
  · cases h

/-- Settles O57: operation by operation, the state operation behind it keeps the invariant. -/
theorem boundaryKeepsInvariant : Obligations.BoundaryKeepsInvariant := by
  intro op a b hs h
  cases op with
  | reset => cases h; exact resetWith_inv _
  | load bytes => rw [Session.apply_load h]; exact hs.load bytes
  | step rnd => exact stepWithRnd_keepsInv rnd hs _ (Session.apply_step h)
  | capture | tick | ackRedraw => cases h; exact hs.of_eq hs.pc

end Sys2Proof.Machine

/-! SUPPORT. The obligations of spec/10_state.md: which elements of the state an instruction may write (R21 to R36), CALL
and RET (R25, R26), and the invariant of R40 at reset and along the steps. -/

namespace Sys2Proof.Machine

variable {s t u : State} {cs ds : List Component}

/-! ## The invariant (R40) -/

/-- Settles O55: reset leaves an empty stack, PC at 512 and no listed memory cell, whatever the font. -/
theorem resetSatisfiesInvariant : Obligations.ResetSatisfiesInvariant := ⟨resetWith_inv _, resetWith_inv⟩

/-- Settles O56: a step stays, raises a fault, or runs an instruction from a fetchable PC. -/
theorem stepKeepsInvariant : Obligations.StepKeepsInvariant := fun _ t hs =>
  ensures_fetchExecute hs hs.withFault (fun _ => exec_keepsInv _ hs) t

/-! ## The input rnd (R36, R131) -/

/-- A step uses its execution function on the fetched instruction only. -/
theorem fetchExecute_congr {run run' : Instr → State → Result}
    (h : run (decode s.fetchWord) s = run' (decode s.fetchWord) s) : fetchExecute run s = fetchExecute run' s := by
  simp only [fetchExecute, h]

theorem stepWithRnd_eq_step (rnd : Byte) (h : ∀ x nn, decode s.fetchWord ≠ .rnd x nn) : stepWithRnd rnd s = step s := by
  obtain ⟨x, nn, hrnd, -⟩ | e := execWithRnd_cases rnd (decode s.fetchWord) s
  · exact absurd hrnd (h x nn)
  · exact fetchExecute_congr e

/-- Settles O11: off CXNN the step with any input byte is the step without one. -/
theorem randomInputReadOnlyByRnd : Obligations.RandomInputReadOnlyByRnd := fun a b _ h =>
  ⟨(stepWithRnd_eq_step a h).trans (stepWithRnd_eq_step b h).symm, stepWithRnd_eq_step a h⟩

/-! ## Frames of the state operations -/

theorem Kept.trans {c : Component} (h1 : Kept c s t) (h2 : Kept c t u) : Kept c s u := by
  cases c with
  | v | mem | fb => exact fun a => (h2 a).trans (h1 a)
  | _ => exact Eq.trans h2 h1

theorem ChangesOnly.mono (h : ChangesOnly cs s t) (hsub : cs ⊆ ds) : ChangesOnly ds s t :=
  fun c hc => h c fun hmem => hc (hsub hmem)

/-- One update after another changes what either of them changes. -/
theorem ChangesOnly.trans (h1 : ChangesOnly cs s t) (h2 : ChangesOnly ds t u) : ChangesOnly (cs ++ ds) s u :=
  fun c hc => (h1 c fun h => hc (List.mem_append_left _ h)).trans (h2 c fun h => hc (List.mem_append_right _ h))

theorem changesOnly_nil_refl : ChangesOnly [] s s := by
  intro c _
  cases c with
  | v | mem | fb => exact fun _ => rfl
  | _ => rfl

theorem setV_changesOnly (v : Vector Byte 16) : ChangesOnly [.v] s { s with v := v } := by
  intro c hc
  cases c <;> simp_all [Kept, State.readByte]

theorem setI_changesOnly (a : Word) : ChangesOnly [.i] s (s.setI a) := by
  intro c hc
  cases c <;> simp_all [Kept]

theorem setDt_changesOnly (b : Byte) : ChangesOnly [.dt] s (s.setDt b) := by
  intro c hc
  cases c <;> simp_all [Kept]

theorem setSt_changesOnly (b : Byte) : ChangesOnly [.st] s (s.setSt b) := by
  intro c hc
  cases c <;> simp_all [Kept]

theorem setSp_changesOnly (k : Fin 17) : ChangesOnly [.sp] s { s with sp := k } := by
  intro c hc
  cases c <;> simp_all [Kept, State.reg, State.readByte]

theorem setStackSp_changesOnly (st : Vector Word 16) (k : Fin 17) :
    ChangesOnly [.stack, .sp] s { s with stack := st, sp := k } := by
  intro c hc
  cases c <;> simp_all [Kept, State.reg, State.readByte]

theorem storeBytes_changesOnly (a : Nat) (bs : List Byte) : ChangesOnly [.mem] s (s.storeBytes a bs) := by
  intro c hc
  cases c <;> simp_all [Kept]

theorem setDisplay_changesOnly (fb : Framebuffer) : ChangesOnly [.fb, .draw] s (s.setDisplay fb) := by
  intro c hc
  cases c <;> simp_all [Kept]

theorem countDraw_changesOnly : ChangesOnly [.draws] s s.countDraw := by
  intro c hc
  cases c <;> simp_all [Kept]

theorem withFault_changesOnly_of_mem (h : .fault ∈ cs) (f : Fault) : ChangesOnly cs s (s.withFault f) :=
  (withFault_changesOnly f).mono (by simpa using h)

/-! ## Footprints (R21 to R35) -/

/-- Every meaning is a chain of state operations, behind a check that may raise instead; its footprint holds what the
operations change, and FAULT where there is a check. -/
theorem exec_changesOnly (i : Instr) (s : State) : Ensures (ChangesOnly (footprint i) s) (exec i s) := by
  unfold exec
  cases i with
  | cls => exact ensures_next ((setDisplay_changesOnly _).trans (setPc_changesOnly _))
  | ret =>
    refine ensures_withPop (withFault_changesOnly_of_mem (by simp [footprint])) fun _ => ensures_next ?_
    exact ((setSp_changesOnly _).trans (setPc_changesOnly _)).mono (by simp [footprint])
  | call =>
    refine ensures_withPush (withFault_changesOnly_of_mem (by simp [footprint])) fun _ => ensures_next ?_
    exact ((setStackSp_changesOnly _ _).trans (setPc_changesOnly _)).mono (by simp [footprint])
  | sys | jp | jpV0 | seImm | sneImm | seReg | sneReg | unrecognized => exact ensures_next (setPc_changesOnly _)
  | skp | sknp =>
    refine ensures_withKey (withFault_changesOnly_of_mem (by simp [footprint])) fun _ => ensures_next ?_
    exact (setPc_changesOnly _).mono (by simp [footprint])
  | ldImm | addImm | ldReg | ldVxDt | orReg | andReg | xorReg | addReg | subReg | shr | subn | shl =>
    exact ensures_next ((setV_changesOnly _).trans (setPc_changesOnly _))
  | ldVxK =>
    exact ensures_execLdVxK (fun _ => (setV_changesOnly _).trans (setPc_changesOnly _))
      (changesOnly_nil_refl.mono (List.nil_subset _))
  | rnd => exact ensures_next (((setV_changesOnly _).trans (setPc_changesOnly _)).trans countDraw_changesOnly)
  | ldI | addI | ldF => exact ensures_next ((setI_changesOnly _).trans (setPc_changesOnly _))
  | ldDtVx => exact ensures_next ((setDt_changesOnly _).trans (setPc_changesOnly _))
  | ldStVx => exact ensures_next ((setSt_changesOnly _).trans (setPc_changesOnly _))
  | drw =>
    refine ensures_withRange (withFault_changesOnly_of_mem (by simp [footprint])) fun _ => ensures_next ?_
    exact (((setDisplay_changesOnly _).trans (setV_changesOnly _)).trans (setPc_changesOnly _)).mono (by simp [footprint])
  | ldB =>
    refine ensures_withRange (withFault_changesOnly_of_mem (by simp [footprint])) fun _ => ensures_next ?_
    exact ((storeBytes_changesOnly _ _).trans (setPc_changesOnly _)).mono (by simp [footprint])
  | storeRegs =>
    refine ensures_withRange (withFault_changesOnly_of_mem (by simp [footprint])) fun _ => ensures_next ?_
    exact (((storeBytes_changesOnly _ _).trans (setI_changesOnly _)).trans (setPc_changesOnly _)).mono
      (by simp [footprint])
  | loadRegs =>
    refine ensures_withRange (withFault_changesOnly_of_mem (by simp [footprint])) fun _ => ensures_next ?_
    exact (((setV_changesOnly _).trans (setI_changesOnly _)).trans (setPc_changesOnly _)).mono (by simp [footprint])

/-- Settles O13, instruction by instruction, from the frames of the operations each is made of. -/
theorem instructionFootprint : Obligations.InstructionFootprint := fun i s t => exec_changesOnly i s t

/-! ## The flag (R22) -/

/-- FX65 reaches VF with X = 15 only. -/
theorem loadRegsUpTo_reg_VF {x : Reg} (hx : x ≠ VF) : (s.loadRegsUpTo x).reg VF = s.reg VF := by
  have hlt : x < VF := lt_of_le_of_ne (Fin.le_last x) hx
  rw [State.loadRegsUpTo_reg, if_neg hlt.not_ge]

/-- An instruction whose footprint holds the registers is a listed flag writer, writes its destination register alone, or is
FX65; every other footprint leaves all registers. -/
theorem exec_keepsVF {i : Instr} (hflag : writesFlag i = false) (hdest : destination i ≠ some VF)
    (hload : i ≠ .loadRegs VF) : Ensures (fun t => t.reg VF = s.reg VF) (exec i s) := by
  cases i with
  | ldImm x | addImm x | ldReg x | ldVxDt x | rnd x =>
    have hx : VF ≠ x := fun h => hdest (congrArg some h.symm)
    exact ensures_next (State.setReg_reg_ne _ _ hx)
  | ldVxK x =>
    have hx : VF ≠ x := fun h => hdest (congrArg some h.symm)
    exact ensures_execLdVxK (fun _ => State.setReg_reg_ne _ _ hx) rfl
  | loadRegs x =>
    have hx : x ≠ VF := fun h => hload (congrArg Instr.loadRegs h)
    exact ensures_withRange (fun _ => rfl) fun _ => ensures_next (loadRegsUpTo_reg_VF hx)
  | orReg | andReg | xorReg | addReg | subReg | shr | subn | shl | drw => cases hflag
  | _ => exact fun t h => exec_changesOnly _ s t h .v (by simp [footprint]) VF

/-- Settles O14: each hypothesis shuts out one of the three ways to write VF. -/
theorem onlyListedInstructionsWriteFlag : Obligations.OnlyListedInstructionsWriteFlag :=
  fun _ _ t hexec hflag hdest hload => exec_keepsVF hflag hdest hload t hexec

/-! ## The redraw flag (R29, R154) -/

/-- CLS and DXYN set DRAW when they write the framebuffer; no other footprint holds it. -/
theorem exec_fb_eq_of_draw_clear (i : Instr) (s : State) : Ensures (fun t => t.draw = false → t.fb = s.fb) (exec i s) := by
  cases i with
  | cls => exact ensures_next (by simp)
  | drw => exact ensures_withRange (fun _ _ => rfl) fun _ => ensures_next (by simp)
  | _ => exact fun t h _ => Framebuffer.ext_of_lit (exec_changesOnly _ s t h .fb (by simp [footprint]))

/-- Settles O17: a step that runs no instruction leaves the framebuffer. -/
theorem redrawFlagCoversFramebuffer : Obligations.RedrawFlagCoversFramebuffer := fun s t =>
  ensures_fetchExecute (fun _ => rfl) (fun _ _ => rfl) (fun _ _ => exec_fb_eq_of_draw_clear _ s) t

/-! ## CALL and RET (R103, R105) -/

theorem withPop_empty {go : State → Word → Result} (h : s.sp = 0) : withPop s go = raise .stackUnderflow s := by
  simp [withPop, h]

theorem withPop_succ {go : State → Word → Result} {k : Fin 16} (h : s.sp.val = k.val + 1) :
    withPop s go = go { s with sp := ⟨k.val, by omega⟩ } s.stack[k] := by
  simp [withPop, h]

theorem withPush_full {a : Word} {go : State → Result} (h : s.sp = 16) : withPush s a go = raise .stackOverflow s := by
  simp [withPush, h]

theorem withPush_free {a : Word} {go : State → Result} {k : Fin 16} (h : s.sp.val = k.val) :
    withPush s a go = go { s with stack := s.stack.set k a, sp := ⟨k.val + 1, by omega⟩ } := by
  simp [withPush, h]

theorem exec_ret : exec .ret s = withPop s fun t a => .next (t.setPc (a + 2)) := rfl

theorem exec_call (nnn : BitVec 12) :
    exec (.call nnn) s = withPush s s.pc fun t => .next (t.setPc (zextAddr nnn)) := rfl

/-- Settles O19: the pop is an update of SP, the resumption one of PC. -/
theorem retPopsAddressPlusTwo : Obligations.RetPopsAddressPlusTwo := by
  refine fun s => ⟨fun hempty => ?_, fun k hk => ?_⟩ <;> rw [exec_ret]
  · rw [withPop_empty hempty]
    exact ⟨_, rfl, rfl, withFault_changesOnly _⟩
  · rw [withPop_succ hk]
    exact ⟨_, rfl, rfl, rfl, (setSp_changesOnly _).trans (setPc_changesOnly _)⟩

theorem toNat_zextAddr (nnn : BitVec 12) : (zextAddr nnn).toNat = nnn.toNat :=
  BitVec.toNat_setWidth_of_le (by decide)

/-- Settles O20: the push is an update of one stack entry and SP, the jump one of PC. -/
theorem callPushesOwnAddress : Obligations.CallPushesOwnAddress := by
  refine fun nnn s => ⟨fun hfull => ?_, fun k hk => ?_⟩ <;> rw [exec_call]
  · rw [withPush_full hfull]
    exact ⟨_, rfl, rfl, withFault_changesOnly _⟩
  · rw [withPush_free hk]
    refine ⟨_, rfl, ?_, fun j hj => ?_, rfl, toNat_zextAddr nnn, ?_⟩
    · simp
    · simp [Fin.val_ne_of_ne hj.symm]
    · exact (setStackSp_changesOnly _ _).trans (setPc_changesOnly _)

end Sys2Proof.Machine

/-! SUPPORT. The obligations of spec/20_memory.md: the fetch of the word at PC (R52), and the stores of FX33 and FX55 with
the check of their range (R53 to R60). -/

namespace Sys2Proof

/-! ## Decoding an encoded word (R71 to R77) -/

/-- SYS is every word of family 0 but 00E0 and 00EE (R77). -/
theorem decode_encode_sys {nnn : BitVec 12} (h : (Instr.sys nnn).wellFormed = true) :
    decode (encode (.sys nnn)) = .sys nnn := by
  simp only [Instr.wellFormed, Bool.and_eq_true, bne_iff_ne] at h
  obtain ⟨hcls, hret⟩ := h
  have field {a : BitVec 12} (ha : nnn ≠ a) : encodeAddr 0x0#4 nnn ≠ encodeAddr 0x0#4 a := fun e =>
    ha (by simpa using congrArg fieldNNN e)
  have hcls : encodeAddr 0x0#4 nnn ≠ 0x00E0#16 := field hcls
  have hret : encodeAddr 0x0#4 nnn ≠ 0x00EE#16 := field hret
  simp [encode, decode, decodeSystem, hcls, hret]

/-- The sub-opcodes of family 8 in the table of R76 are no instruction's. -/
theorem decodeArith_unrecognized {w : Word}
    (h : [0x8#4, 0x9#4, 0xA#4, 0xB#4, 0xC#4, 0xD#4, 0xF#4].contains (fieldN w) = true) :
    decodeArith w = .unrecognized w := by
  unfold decodeArith
  split <;> simp_all [← BitVec.toNat_inj]

/-- A sub-opcode of family E outside R75 is unrecognized. -/
theorem decodeKey_unrecognized {w : Word} (h : [0x9E#8, 0xA1#8].contains (fieldNN w) = false) :
    decodeKey w = .unrecognized w := by
  unfold decodeKey
  split <;> simp_all [← BitVec.toNat_inj]

/-- A sub-opcode of family F outside R75 is unrecognized. -/
theorem decodeMisc_unrecognized {w : Word}
    (h : [0x07#8, 0x0A#8, 0x15#8, 0x18#8, 0x1E#8, 0x29#8, 0x33#8, 0x55#8, 0x65#8].contains (fieldNN w) = false) :
    decodeMisc w = .unrecognized w := by
  unfold decodeMisc
  split <;> simp_all [← BitVec.toNat_inj]

/-- Every word of the table of R76 falls through the decode procedure, row by row. -/
theorem decode_unrecognizedWord {w : Word} (h : unrecognizedWord w = true) : decode w = .unrecognized w := by
  simp only [unrecognizedWord, Bool.or_eq_true, Bool.and_eq_true, Bool.not_eq_true', beq_iff_eq, bne_iff_ne] at h
  obtain (((⟨hf, hn⟩ | ⟨hf, hn⟩) | ⟨hf, hn⟩) | ⟨hf, hnn⟩) | ⟨hf, hnn⟩ := h
  · simp [decode, fieldFamily, fieldN, hf, hn]
  · simp [decode, fieldFamily, hf, decodeArith_unrecognized hn]
  · simp [decode, fieldFamily, fieldN, hf, hn]
  · simp [decode, fieldFamily, hf, decodeKey_unrecognized hnn]
  · simp [decode, fieldFamily, hf, decodeMisc_unrecognized hnn]

/-- Decoding undoes encoding: every field is read back, and the family and the sub-opcode select the constructor. -/
theorem decode_encode {i : Instr} (h : i.wellFormed = true) : decode (encode i) = i := by
  cases i with
  | cls | ret => rfl
  | sys nnn => exact decode_encode_sys h
  | unrecognized w => exact decode_unrecognizedWord h
  | jp | call | ldI | jpV0 => simp [encode, decode]
  | seImm | sneImm | ldImm | addImm | rnd => simp [encode, decode]
  | seReg | sneReg | drw => simp [encode, decode]
  | ldReg | orReg | andReg | xorReg | addReg | subReg | shr | subn | shl => simp [encode, decode, decodeArith]
  | skp | sknp => simp [encode, decode, decodeKey]
  | ldVxDt | ldVxK | ldDtVx | ldStVx | addI | ldF | ldB | storeRegs | loadRegs => simp [encode, decode, decodeMisc]

end Sys2Proof

namespace Sys2Proof.Machine

variable {s : State}

/-! ## The step (R52, R100) -/

/-- Settles O6: the two bytes are the fetched word, and decoding it gives the instruction back. -/
theorem stepRunsDecodedInstruction : Obligations.StepRunsDecodedInstruction := by
  intro i s hwf hnone hpc hhigh hlow
  have hfetch : s.canFetch = true := canFetch_iff.mpr (show s.pc.toNat + 1 < 4096 by omega)
  have hword : s.fetchWord = encode i := by rw [State.fetchWord, hhigh, hlow, wordOfBytes_bytes]
  rw [step, fetchExecute_running hnone hfetch, hword, decode_encode hwf]

/-- Settles O9: the fetch is not defined at that PC, and a raised fault changes FAULT alone. -/
theorem fetchBeyondMemoryFaults : Obligations.FetchBeyondMemoryFaults := by
  intro s hnone hpc
  have hfetch : s.canFetch = false := decide_eq_false (show ¬s.pc.toNat + 1 < 4096 by omega)
  exact ⟨_, fetchExecute_pcOut hnone hfetch, rfl, withFault_changesOnly _⟩

/-! ## Checked ranges (R55) -/

/-- A nonempty range whose last address is above 4095 raises, with its lowest offending address. -/
theorem withRange_faults {len : Nat} {go : Result} (hlen : 0 < len) (hout : 4095 < s.i.toNat + len - 1) :
    ∃ t, withRange s len go = .next t ∧ t.fault = some (.memOutOfBounds (max s.i.toNat 4096)) ∧
      ChangesOnly [.fault] s t := by
  have hrange : ¬s.InRange len := by
    simp only [State.InRange, Config.memSize]
    omega
  exact ⟨_, withRange_outOfRange hrange, rfl, withFault_changesOnly _⟩

/-- Settles O40: each of the four forms is its range check around the rest. -/
theorem rangeOutsideMemoryFaults : Obligations.RangeOutsideMemoryFaults := by
  intro i x y n len s hform hlen hout
  obtain ⟨rfl, rfl⟩ | ⟨rfl, rfl⟩ | ⟨rfl, rfl⟩ | ⟨rfl, rfl⟩ := hform <;> exact withRange_faults hlen hout

/-! ## Stores (R53, R56) -/

/-- A byte of a stored block is read back. -/
theorem storeBytes_readByte_inside (hwf : s.mem.wf s.font = true) {a k : Nat} {bs : List Byte}
    (hfit : a + bs.length ≤ Config.memSize) (hk : k < bs.length) : (s.storeBytes a bs).readByte (a + k) = bs[k] := by
  rw [State.storeBytes_readByte hwf (.inr hfit), if_pos (by omega), Nat.add_sub_cancel_left, List.getD_eq_getElem _ _ hk]

/-- A byte outside a stored block is the byte before. -/
theorem storeBytes_readByte_outside (hwf : s.mem.wf s.font = true) {a c : Nat} {bs : List Byte}
    (hfit : a + bs.length ≤ Config.memSize) (hc : c < a ∨ a + bs.length ≤ c) :
    (s.storeBytes a bs).readByte c = s.readByte c := by
  rw [State.storeBytes_readByte hwf (.inr hfit), if_neg (by omega)]

/-- FX33 on a range inside memory (R143). -/
theorem exec_ldB_inRange {x : Reg} (h : s.InRange 3) :
    exec (.ldB x) s = .next (s.storeBytes s.i.toNat (decimalDigits (s.reg x))).advance := withRange_inRange h

/-- FX55 on a range inside memory (R144). -/
theorem exec_storeRegs_inRange {x : Reg} (h : s.InRange (x.val + 1)) :
    exec (.storeRegs x) s = .next ((s.storeBytes s.i.toNat (s.regsUpTo x)).bumpI x).advance := withRange_inRange h

/-- Settles O36: the block stored is the three decimal digits. -/
theorem bcdStoresDigits : Obligations.BcdStoresDigits := by
  intro x s hwf hroom
  have hfit : s.i.toNat + (decimalDigits (s.reg x)).length ≤ Config.memSize := show s.i.toNat + 3 ≤ 4096 by omega
  have digit (k : Nat) (hk : k < 3) := congrArg BitVec.toNat (storeBytes_readByte_inside hwf hfit hk)
  refine ⟨_, exec_ldB_inRange (.inr hfit), ?_, ?_, ?_, fun a ha => ?_, rfl, ?_⟩
  · simpa [decimalDigits] using digit 0 (by decide)
  · simpa [decimalDigits] using digit 1 (by decide)
  · simpa [decimalDigits] using digit 2 (by decide)
  · exact storeBytes_readByte_outside hwf hfit ha
  · exact (storeBytes_changesOnly _ _).trans (setPc_changesOnly _)

/-- The block FX55 stores, register by register. -/
theorem getElem_regsUpTo {x k : Reg} (hk : k.val < (s.regsUpTo x).length) : (s.regsUpTo x)[k.val] = s.reg k := by
  simp [State.regsUpTo, State.reg]

/-- I does not wrap when it is moved past a block that lies inside memory. -/
theorem toNat_bumpI {x : Reg} (h : s.i.toNat + x.val ≤ 4095) : (s.bumpI x).i.toNat = s.i.toNat + x.val + 1 := by
  rw [State.bumpI_i, BitVec.toNat_add, BitVec.toNat_ofNat]
  omega

/-- Settles O37: the block stored is the registers up to VX. -/
theorem blockStoreWritesRegisters : Obligations.BlockStoreWritesRegisters := by
  intro x s hwf hroom
  have hlen := length_regsUpTo (s := s) x
  have hroom' : s.i.toNat + (x.val + 1) ≤ Config.memSize := show s.i.toNat + (x.val + 1) ≤ 4096 by omega
  have hfit : s.i.toNat + (s.regsUpTo x).length ≤ Config.memSize := hlen ▸ hroom'
  refine ⟨_, exec_storeRegs_inRange (.inr hroom'), fun k hk => ?_, fun a ha => ?_, toNat_bumpI hroom, rfl, ?_⟩
  · have hin : k.val < (s.regsUpTo x).length := hlen ▸ Nat.lt_succ_of_le hk
    exact (storeBytes_readByte_inside hwf hfit hin).trans (getElem_regsUpTo hin)
  · exact storeBytes_readByte_outside hwf hfit (by omega)
  · exact ((storeBytes_changesOnly _ _).trans (setI_changesOnly _)).trans (setPc_changesOnly _)

/-- Settles O41: the block of FX55 with X = 1 is the two bytes at the next PC. -/
theorem storedBytesAreFetchedNext : Obligations.StoredBytesAreFetchedNext := by
  intro s hwf hi hroom
  have hnext : s.i.toNat = s.pc.toNat + 2 := by
    rw [hi]
    exact BitVec.toNat_add_of_lt (show s.pc.toNat + 2 < 65536 by omega)
  obtain ⟨t, hexec, hstored, -, -, hpc, -⟩ := blockStoreWritesRegisters 1 s hwf (by omega)
  refine ⟨t, hexec, ?_⟩
  rw [State.fetchWord, hpc, ← hi]
  exact congrArg₂ wordOfBytes (hstored 0 (by decide)) (hstored 1 (by decide))

end Sys2Proof.Machine

/-! SUPPORT. The obligations of spec/30_encoding.md: decoding undoes encoding and encoding undoes decoding (R71 to R74),
the words of R76 and R77, and the decode procedure against the opcode map (R75). -/

namespace Sys2Proof

variable {w u : Word} {f n : BitVec 4} {nn : Byte}

/-! ## A word is made of its fields (R71, R72) -/

theorem encodeAddr_fields (hf : (fieldFamily w).toNat = f.toNat) : encodeAddr f (fieldNNN w) = w := by
  rw [← BitVec.eq_of_toNat_eq hf]
  exact (BitVec.extractLsb'_append_extractLsb'_eq_extractLsb' rfl).trans BitVec.extractLsb'_eq_self

theorem encodeRegImm_fields (hf : (fieldFamily w).toNat = f.toNat) (hnn : (fieldNN w).toNat = nn.toNat) :
    encodeRegImm f (fieldX w) nn = w := by
  have high : (fieldFamily w ++ regNibble (fieldX w) : Byte) = highByte w :=
    BitVec.extractLsb'_append_extractLsb'_eq_extractLsb' rfl
  rw [encodeRegImm, ← BitVec.eq_of_toNat_eq hf, ← BitVec.eq_of_toNat_eq hnn, high]
  exact wordOfBytes_bytes w

theorem encodeRegReg_fields (hf : (fieldFamily w).toNat = f.toNat) (hn : (fieldN w).toNat = n.toNat) :
    encodeRegReg f (fieldX w) (fieldY w) n = w := by
  have low : (regNibble (fieldY w) ++ fieldN w : Byte) = fieldNN w :=
    BitVec.extractLsb'_append_extractLsb'_eq_extractLsb' rfl
  rw [encodeRegReg, ← BitVec.eq_of_toNat_eq hn, low]
  exact encodeRegImm_fields hf rfl

/-! ## Every word is the word of what it decodes to (R74) -/

/-- The term stands for the word: it is well-formed and encodes to it. -/
def Instr.Encodes (i : Instr) (w : Word) : Prop := i.wellFormed = true ∧ encode i = w

/-- In family 0 the operand of SYS is neither that of CLS nor that of RET, their words being tested first. -/
theorem decodeSystem_encodes (hf : (fieldFamily w).toNat = 0x0) : (decodeSystem w).Encodes w := by
  have hw : encodeAddr 0x0#4 (fieldNNN w) = w := encodeAddr_fields hf
  have operand (a : BitVec 12) (h : w ≠ encodeAddr 0x0#4 a) : fieldNNN w ≠ a := fun e => h (by rw [← hw, e])
  unfold decodeSystem
  split_ifs with hcls hret
  · exact ⟨rfl, hcls.symm⟩
  · exact ⟨rfl, hret.symm⟩
  · refine ⟨?_, hw⟩
    simpa [Instr.wellFormed] using And.intro (operand 0x0E0#12 hcls) (operand 0x0EE#12 hret)

theorem decodeArith_encodes (hf : (fieldFamily w).toNat = 0x8) : (decodeArith w).Encodes w := by
  unfold decodeArith
  split
  case h_10 =>
    refine ⟨?_, rfl⟩
    have hn : [0x8#4, 0x9#4, 0xA#4, 0xB#4, 0xC#4, 0xD#4, 0xF#4].contains (fieldN w) = true := by
      generalize fieldN w = n at *
      revert n
      decide
    simp_all [Instr.wellFormed, unrecognizedWord, fieldFamily, fieldN, ← BitVec.toNat_inj]
  all_goals exact ⟨rfl, encodeRegReg_fields hf ‹_›⟩

theorem decodeKey_encodes (hf : (fieldFamily w).toNat = 0xE) : (decodeKey w).Encodes w := by
  unfold decodeKey
  split
  case h_3 =>
    refine ⟨?_, rfl⟩
    simp_all [Instr.wellFormed, unrecognizedWord, fieldFamily, fieldNN, ← BitVec.toNat_inj]
  all_goals exact ⟨rfl, encodeRegImm_fields hf ‹_›⟩

theorem decodeMisc_encodes (hf : (fieldFamily w).toNat = 0xF) : (decodeMisc w).Encodes w := by
  unfold decodeMisc
  split
  case h_10 =>
    refine ⟨?_, rfl⟩
    simp_all [Instr.wellFormed, unrecognizedWord, fieldFamily, fieldNN, ← BitVec.toNat_inj]
  all_goals exact ⟨rfl, encodeRegImm_fields hf ‹_›⟩

/-- The decode procedure, family by family. -/
theorem decode_encodes (w : Word) : (decode w).Encodes w := by
  unfold decode
  split <;> rename_i hf
  case h_1 => exact decodeSystem_encodes hf
  case h_2 | h_3 | h_11 | h_12 => exact ⟨rfl, encodeAddr_fields hf⟩
  case h_4 | h_5 | h_7 | h_8 | h_13 => exact ⟨rfl, encodeRegImm_fields hf rfl⟩
  case h_6 | h_10 =>
    split_ifs with hn
    · exact ⟨rfl, encodeRegReg_fields hf (congrArg BitVec.toNat hn)⟩
    · exact ⟨by simp_all [Instr.wellFormed, unrecognizedWord, fieldFamily, fieldN, ← BitVec.toNat_inj], rfl⟩
  case h_9 => exact decodeArith_encodes hf
  case h_14 => exact ⟨rfl, encodeRegReg_fields hf rfl⟩
  case h_15 => exact decodeKey_encodes hf
  case h_16 =>
    have hf : (fieldFamily w).toNat = 0xF := by
      generalize fieldFamily w = f at *
      revert f
      decide
    exact decodeMisc_encodes hf

/-- Settles O2: each operand is read back from its field. -/
theorem decodeOfEncode : Obligations.DecodeOfEncode := fun _ => decode_encode

/-- Settles O3: a word is put together again from its fields. -/
theorem encodeOfDecode : Obligations.EncodeOfDecode := decode_encodes

/-! ## Unrecognized words and SYS words (R76, R77) -/

theorem decode_eq_unrecognized_iff : decode w = .unrecognized w ↔ unrecognizedWord w = true := by
  refine ⟨fun h => ?_, decode_unrecognizedWord⟩
  obtain ⟨hwf, -⟩ := decode_encodes w
  rwa [h] at hwf

theorem fieldFamily_eq_zero_iff : (fieldFamily w).toNat = 0x0 ↔ w.toNat < 0x1000 := by
  rw [fieldFamily, BitVec.extractLsb'_toNat, Nat.shiftRight_eq_div_pow]
  omega

theorem decode_eq_sys_iff :
    (∃ nnn, decode w = .sys nnn) ↔ w.toNat < 0x1000 ∧ w ≠ 0x00E0#16 ∧ w ≠ 0x00EE#16 := by
  rw [← fieldFamily_eq_zero_iff]
  constructor
  · rintro ⟨nnn, h⟩
    obtain ⟨-, hw⟩ := decode_encodes w
    rw [h] at hw
    refine ⟨?_, ?_, ?_⟩
    · rw [← hw, encode, fieldFamily_encodeAddr]
      rfl
    · rintro rfl
      cases h
    · rintro rfl
      cases h
  · rintro ⟨hf, hcls, hret⟩
    exact ⟨fieldNNN w, by simp [decode, hf, decodeSystem, hcls, hret]⟩

/-- Settles O5, both clauses read off the round trip of a decoded word. -/
theorem unrecognizedAndSysWords : Obligations.UnrecognizedAndSysWords := fun _ =>
  ⟨decode_eq_unrecognized_iff, decode_eq_sys_iff⟩

/-! ## The opcode map (R75) -/

theorem OpcodeRow.selects_of_family {r : OpcodeRow} (hm : r.mask = 0xF000#16) (hb : r.bits = encodeAddr f 0)
    (hf : fieldFamily w = f) : r.selects w = true := by
  rw [r.selects_family f w hm hb, hf, beq_self_eq_true]

theorem OpcodeRow.selects_encodeRegReg {r : OpcodeRow} {x y : Reg} (hm : r.mask = 0xF00F#16)
    (hb : r.bits = encodeRegReg f 0 0 n) : r.selects (encodeRegReg f x y n) = true := by
  simp [r.selects_familyN f n _ hm hb]

theorem OpcodeRow.selects_encodeRegImm {r : OpcodeRow} {x : Reg} (hm : r.mask = 0xF0FF#16)
    (hb : r.bits = encodeRegImm f 0 nn) : r.selects (encodeRegImm f x nn) = true := by
  simp [r.selects_familyNN f nn _ hm hb]

/-- The row of an instruction selects its word, whatever the operands. -/
theorem row_selects_encode (i : Instr) (h : i.row < opcodeRows.length) :
    opcodeRows[i.row].selects (encode i) = true := by
  cases i with
  | cls | ret =>
    rw [OpcodeRow.selects_word _ _ rfl]
    rfl
  | sys | jp | call | ldI | jpV0 => exact OpcodeRow.selects_of_family rfl rfl (fieldFamily_encodeAddr _ _)
  | seImm | sneImm | ldImm | addImm | rnd =>
    exact OpcodeRow.selects_of_family rfl rfl (fieldFamily_encodeRegImm _ _ _)
  | drw => exact OpcodeRow.selects_of_family rfl rfl (fieldFamily_encodeRegReg _ _ _ _)
  | seReg | sneReg | ldReg | orReg | andReg | xorReg | addReg | subReg | shr | subn | shl =>
    exact OpcodeRow.selects_encodeRegReg rfl rfl
  | skp | sknp | ldVxDt | ldVxK | ldDtVx | ldStVx | addI | ldF | ldB | storeRegs | loadRegs =>
    exact OpcodeRow.selects_encodeRegImm rfl rfl
  | unrecognized => exact absurd h (Nat.lt_irrefl 35)

/-- Two rows that select one word agree on the bits that both masks keep. -/
theorem OpcodeRow.bits_agree {a b : OpcodeRow} (ha : a.selects w = true) (hb : b.selects w = true) :
    a.bits &&& b.mask = b.bits &&& a.mask := by
  rw [OpcodeRow.selects, beq_iff_eq] at ha hb
  rw [← ha, ← hb, BitVec.and_assoc, BitVec.and_assoc, BitVec.and_comm a.mask]

/-- Rows overlap only where the earlier one is a single word, and that word decodes to its own row (CLS and RET). -/
theorem rows_disjoint_or_word : ∀ k (hk : k < opcodeRows.length) j (hj : j < k),
    opcodeRows[j].bits &&& opcodeRows[k].mask ≠ opcodeRows[k].bits &&& opcodeRows[j].mask ∨
    opcodeRows[j].mask = 0xFFFF#16 ∧ (decode opcodeRows[j].bits).row = j := by decide

/-- No row before that of the decoded instruction selects the word. -/
theorem not_selects_of_lt_row {j : Nat} (hk : (decode w).row < opcodeRows.length) (hj : j < (decode w).row) :
    opcodeRows[j].selects w = false := by
  rw [Bool.eq_false_iff]
  intro hs
  obtain hdis | ⟨hm, hrow⟩ := rows_disjoint_or_word _ hk j hj
  · obtain ⟨-, hw⟩ := decode_encodes w
    have hsel := row_selects_encode _ hk
    rw [hw] at hsel
    exact hdis (OpcodeRow.bits_agree hs hsel)
  · rw [OpcodeRow.selects_word _ w hm, beq_iff_eq] at hs
    rw [hs, hrow] at hj
    exact hj.false

/-! ### No row selects a word of R76 -/

theorem unrecognizedWord_eq_false (hf : fieldFamily w ∉ [0x5#4, 0x8#4, 0x9#4, 0xE#4, 0xF#4]) :
    unrecognizedWord w = false := by
  simp_all [unrecognizedWord, fieldFamily]

theorem unrecognizedWord_congr_fieldN (hf : fieldFamily w = fieldFamily u) (hn : fieldN w = fieldN u)
    (hu : fieldFamily u ∉ [0xE#4, 0xF#4]) : unrecognizedWord w = unrecognizedWord u := by
  rw [Bool.eq_iff_iff]
  simp_all [unrecognizedWord, fieldFamily, fieldN]

theorem unrecognizedWord_congr_fieldNN (hf : fieldFamily w = fieldFamily u) (hnn : fieldNN w = fieldNN u) :
    unrecognizedWord w = unrecognizedWord u := by
  have low (v : Word) : (fieldNN v).extractLsb' 0 4 = v.extractLsb' 0 4 := by
    ext k hk
    simp [fieldNN]
  have hn : w.extractLsb' 0 4 = u.extractLsb' 0 4 := by rw [← low, hnn, low]
  rw [fieldFamily, fieldFamily] at hf
  rw [fieldNN, fieldNN] at hnn
  rw [unrecognizedWord, unrecognizedWord, hf, hn, hnn]

/-- The shape of a row: its mask keeps all the fields on which R76 depends in its family. -/
theorem opcodeRow_cases : ∀ r ∈ opcodeRows,
    r.mask = 0xFFFF#16 ∨
    r.mask = 0xF000#16 ∧ r.bits = encodeAddr (fieldFamily r.bits) 0 ∧
      fieldFamily r.bits ∉ [0x5#4, 0x8#4, 0x9#4, 0xE#4, 0xF#4] ∨
    r.mask = 0xF00F#16 ∧ r.bits = encodeRegReg (fieldFamily r.bits) 0 0 (fieldN r.bits) ∧
      fieldFamily r.bits ∉ [0xE#4, 0xF#4] ∨
    r.mask = 0xF0FF#16 ∧ r.bits = encodeRegImm (fieldFamily r.bits) 0 (fieldNN r.bits) := by decide

theorem opcodeRow_bits_recognized : ∀ r ∈ opcodeRows, unrecognizedWord r.bits = false := by decide

/-- A row's mask keeps enough of the word to decide R76, so the answer for its match value is that for the word. -/
theorem recognized_of_selects {r : OpcodeRow} (hr : r ∈ opcodeRows) (h : r.selects w = true) :
    unrecognizedWord w = false := by
  have hrec := opcodeRow_bits_recognized r hr
  obtain hm | ⟨hm, hb, hfam⟩ | ⟨hm, hb, hfam⟩ | ⟨hm, hb⟩ := opcodeRow_cases r hr
  · rw [r.selects_word w hm, beq_iff_eq] at h
    rwa [h]
  · rw [r.selects_family _ w hm hb, beq_iff_eq] at h
    exact unrecognizedWord_eq_false (h ▸ hfam)
  · rw [r.selects_familyN _ _ w hm hb, Bool.and_eq_true, beq_iff_eq, beq_iff_eq] at h
    obtain ⟨hf, hn⟩ := h
    exact (unrecognizedWord_congr_fieldN hf hn hfam).trans hrec
  · rw [r.selects_familyNN _ _ w hm hb, Bool.and_eq_true, beq_iff_eq, beq_iff_eq] at h
    obtain ⟨hf, hnn⟩ := h
    exact (unrecognizedWord_congr_fieldNN hf hnn).trans hrec

theorem row_lt_or_unrecognized (i : Instr) : i.row < opcodeRows.length ∨ ∃ v, i = .unrecognized v := by
  cases i with
  | unrecognized v => exact .inr ⟨v, rfl⟩
  | _ => exact .inl (of_decide_eq_true rfl)

/-- Settles O4: the row of the decoded instruction selects the word and no earlier one does; no row selects an
unrecognized word. -/
theorem decodeSelectsFirstTableRow : Obligations.DecodeSelectsFirstTableRow := by
  intro w
  obtain ⟨hwf, hw⟩ := decode_encodes w
  obtain hk | ⟨v, hv⟩ := row_lt_or_unrecognized (decode w)
  · have hsel := row_selects_encode _ hk
    rw [hw] at hsel
    exact ((List.findIdx_eq hk).mpr ⟨hsel, fun j hj => not_selects_of_lt_row hk hj⟩).symm
  · rw [hv] at hwf hw ⊢
    obtain rfl : v = w := hw
    have unselected : ∀ r ∈ opcodeRows, r.selects v = false := fun r hr =>
      Bool.eq_false_iff.mpr fun hs => Bool.false_ne_true ((recognized_of_selects hr hs).symm.trans hwf)
    exact (List.findIdx_eq_length_of_false unselected).symm

/-- Settles O1, each word by evaluation. -/
theorem decodesWrittenWords : Obligations.DecodesWrittenWords := by
  unfold Obligations.DecodesWrittenWords
  decide

end Sys2Proof

/-! SUPPORT. The obligations of spec/40_control_flow.md: the step of a faulted block and its diagnostic (R100), where PC
stands after an instruction (R101), and SYS, JP, CALL, RET and the skips (R102 to R110). -/

namespace Sys2Proof.Machine

variable {s : State}

/-! ## The step and its diagnostic (R100, R184, R187) -/

/-- Settles O8: the check of FAULT comes first. -/
theorem faultedStepChangesNothing : Obligations.FaultedStepChangesNothing := fun _ => fetchExecute_faulted

theorem canFetch_eq_true (h : s.pc.toNat ≤ 4094) : s.canFetch = true :=
  canFetch_iff.mpr (show s.pc.toNat + 1 < 4096 by omega)

theorem canFetch_eq_false (h : 4094 < s.pc.toNat) : s.canFetch = false :=
  decide_eq_false (show ¬s.pc.toNat + 1 < 4096 by omega)

theorem stepDiag_running (hnone : s.fault = none) (hfetch : s.canFetch = true) :
    stepDiag s = instrDiag (decode s.fetchWord) s.fetchWord := by
  simp [stepDiag, hnone, hfetch]

theorem stepDiag_faulted (h : s.fault ≠ none) : stepDiag s = .none := by
  simp [stepDiag, h]

theorem stepDiag_pcOut (h : s.canFetch = false) : stepDiag s = .none := by
  simp [stepDiag, h]

/-- Only SYS and an unrecognized word have a diagnostic (R187). -/
theorem instrDiag_eq_none {i : Instr} (hsys : ∀ nnn, i ≠ .sys nnn) (hunrec : ∀ w, i ≠ .unrecognized w) (w : Word) :
    instrDiag i w = .none := by
  cases i with
  | sys nnn => exact absurd rfl (hsys nnn)
  | unrecognized u => exact absurd rfl (hunrec u)
  | _ => rfl

/-- Settles O12: a step that runs an instruction has that instruction's diagnostic, every other step has none. -/
theorem diagnosticOfStep : Obligations.DiagnosticOfStep := by
  refine fun s => ⟨fun hnone hpc => ?_, stepDiag_faulted, fun hpc => stepDiag_pcOut (canFetch_eq_false hpc)⟩
  rw [stepDiag_running hnone (canFetch_eq_true hpc)]
  refine ⟨fun nnn hsys => ?_, fun w hunrec => ?_, fun hsys hunrec => instrDiag_eq_none hsys hunrec _⟩
  · rw [hsys]
    rfl
  · rw [hunrec]
    rfl

/-! ## SYS and the jumps (R102, R104, R110) -/

/-- Settles O18: the next state is the old one with PC advanced. -/
theorem sysIsNoOperation : Obligations.SysIsNoOperation :=
  fun _ s => ⟨s.advance, rfl, rfl, setPc_changesOnly _⟩

theorem exec_jp (nnn : BitVec 12) : exec (.jp nnn) s = .next (s.setPc (zextAddr nnn)) := rfl

/-- Of the twelve-bit addresses only 4095 is above the last one a fetch is defined at (R52). -/
theorem lt_toNat_zextAddr_iff (nnn : BitVec 12) : 4094 < (zextAddr nnn).toNat ↔ nnn = 4095#12 := by
  rw [toNat_zextAddr, ← BitVec.toNat_inj, BitVec.toNat_ofNat]
  omega

/-- Settles O22: the target is written as it stands. -/
theorem jpSetsProgramCounter : Obligations.JpSetsProgramCounter :=
  fun nnn _ => ⟨_, exec_jp nnn, toNat_zextAddr nnn, lt_toNat_zextAddr_iff nnn, setPc_changesOnly _⟩

/-- The sum of BNNN does not reach 65536 (R110). -/
theorem toNat_zextAddr_add_zextByte (nnn : BitVec 12) (b : Byte) :
    (zextAddr nnn + zextByte b).toNat = nnn.toNat + b.toNat := by
  rw [BitVec.toNat_add, toNat_zextAddr, zextByte, BitVec.toNat_setWidth_of_le (by decide)]
  omega

/-- Settles O23: the sum of two zero-extended operands is their sum in the naturals. -/
theorem jpV0AddsRegisterZero : Obligations.JpV0AddsRegisterZero :=
  fun nnn _ => ⟨_, rfl, toNat_zextAddr_add_zextByte nnn _, setPc_changesOnly _⟩

/-- A jump to its own address is a fixed point of the step (R208). -/
theorem step_of_parked (h : s.Parked) : step s = .next s := by
  obtain ⟨⟨hnone, hfetch⟩, nnn, hjp, hself⟩ := h
  rw [step, fetchExecute_running hnone hfetch, hjp, exec_jp, hself, setPc_self]

/-- Settles O27: a run never leaves a fixed point of the step. -/
theorem parkedRunStaysParked : Obligations.ParkedRunStaysParked :=
  fun _ n h => run_of_step_fixed core (step_of_parked h) n

/-! ## CALL, then RET (R103, R105) -/

/-- Settles O21: the entry RET pops is the one CALL pushed, so SP is back where it was; the rest is the two frames. -/
theorem callThenRetResumesAfterCall : Obligations.CallThenRetResumesAfterCall := by
  intro nnn s hfree
  obtain ⟨-, hpush⟩ := callPushesOwnAddress nnn s
  obtain ⟨t, hcall, htop, -, htsp, -, hcallFrame⟩ := hpush ⟨s.sp.val, hfree⟩ rfl
  obtain ⟨-, hpop⟩ := retPopsAddressPlusTwo t
  obtain ⟨u, hret, husp, hupc, hretFrame⟩ := hpop ⟨s.sp.val, hfree⟩ htsp
  refine ⟨t, u, hcall, hret, by rw [hupc, htop], fun c hc => ?_⟩
  by_cases hsp : c = .sp
  · subst hsp
    exact Fin.ext husp
  · exact hcallFrame.trans hretFrame c (by simpa [hsp, and_comm] using hc)

/-! ## The skips (R106 to R109) -/

/-- The two places a skip leads to (R101). -/
theorem skipIf_pc_cases (taken : Bool) : (s.skipIf taken).pc = s.pc + 4 ∨ (s.skipIf taken).pc = s.pc + 2 := by
  cases taken
  · exact .inr rfl
  · exact .inl rfl

theorem skipIf_beq_pc (a b : Byte) :
    (s.skipIf (a == b)).pc = if a.toNat = b.toNat then s.pc + 4 else s.pc + 2 := by
  simp [BitVec.toNat_inj]

theorem skipIf_bne_pc (a b : Byte) :
    (s.skipIf (a != b)).pc = if a.toNat = b.toNat then s.pc + 2 else s.pc + 4 := by
  simp [BitVec.toNat_inj]

/-- Settles O24: comparing bytes is comparing their values, and a skip writes PC alone. -/
theorem immediateSkips : Obligations.ImmediateSkips := fun _ _ _ =>
  ⟨⟨_, rfl, skipIf_beq_pc _ _, setPc_changesOnly _⟩, ⟨_, rfl, skipIf_bne_pc _ _, setPc_changesOnly _⟩⟩

/-- Settles O25, as for the immediates. -/
theorem registerSkips : Obligations.RegisterSkips := fun _ _ _ =>
  ⟨⟨_, rfl, skipIf_beq_pc _ _, setPc_changesOnly _⟩, ⟨_, rfl, skipIf_bne_pc _ _, setPc_changesOnly _⟩⟩

/-! ## The table of PC (R101) -/

/-- The row of R101 holds of the next state, unless that state is a raised fault's. -/
theorem exec_pcAfter (i : Instr) (s : State) : Ensures (fun t => t.fault = none → pcAfter i s t) (exec i s) := by
  have hraised (f : Fault) : (s.withFault f).fault = none → pcAfter i s (s.withFault f) := nofun
  unfold exec
  cases i with
  | jp nnn => exact ensures_next fun _ => toNat_zextAddr nnn
  | call nnn => exact ensures_withPush hraised fun _ => ensures_next fun _ => toNat_zextAddr nnn
  | jpV0 nnn =>
    refine ensures_next fun _ => (toNat_zextAddr_add_zextByte nnn _).trans ?_
    exact (Nat.mod_eq_of_lt (by omega)).symm
  | ret => exact ensures_withPop hraised fun _ => ensures_next fun _ => ⟨by omega, BitVec.toNat_add _ _⟩
  | seImm | sneImm | seReg | sneReg => exact ensures_next fun _ => skipIf_pc_cases _
  | skp | sknp => exact ensures_withKey hraised fun _ => ensures_next fun _ => skipIf_pc_cases _
  | ldVxK => exact ensures_execLdVxK (fun _ _ => .inl rfl) (fun _ => .inr rfl)
  | drw | ldB | storeRegs | loadRegs =>
    exact ensures_withRange hraised fun _ => ensures_next fun _ => rfl
  | _ => exact ensures_next fun _ => rfl

/-- Settles O15, instruction by instruction. -/
theorem programCounterTable : Obligations.ProgramCounterTable :=
  fun i s t _ hexec hnone => exec_pcAfter i s t hexec hnone

end Sys2Proof.Machine

/-! SUPPORT. The obligations of spec/41_alu.md: the register loads (R120 to R122), the operations that put a flag into VF
after their result (R123 to R127, R129), the shifts (R128, R130) and RND (R131). -/

namespace Sys2Proof.Machine

variable {s : State}

/-! ## One register written (R120 to R122, R131) -/

theorem setReg_advance_frame (x : Reg) (b : Byte) :
    (∀ r, r ≠ x → (s.setReg x b).advance.reg r = s.reg r) ∧ (s.setReg x b).advance.pc = s.pc + 2 ∧
      ChangesOnly [.v, .pc] s (s.setReg x b).advance :=
  ⟨fun _ hr => s.setReg_reg_ne b hr, rfl, (setV_changesOnly _).trans (setPc_changesOnly _)⟩

/-- Settles O28: each of the three is one register write and an advance, and addition of bytes is modulo 256. -/
theorem loadsAndAddImmediate : Obligations.LoadsAndAddImmediate := by
  refine fun x y nn s => ⟨⟨_, rfl, s.setReg_reg_self x nn, setReg_advance_frame x nn⟩,
    ⟨_, rfl, ?_, setReg_advance_frame x _⟩, ⟨_, rfl, s.setReg_reg_self x _, setReg_advance_frame x _⟩⟩
  rw [State.advance_reg, State.setReg_reg_self, BitVec.toNat_add]

theorem rndInto_reg_self (rnd : Byte) (x : Reg) (nn : Byte) : (rndInto rnd x nn s).reg x = rnd &&& nn :=
  s.setReg_reg_self x _

theorem rndInto_reg_ne (rnd : Byte) {x r : Reg} (nn : Byte) (h : r ≠ x) : (rndInto rnd x nn s).reg r = s.reg r :=
  s.setReg_reg_ne _ h

theorem rndInto_changesOnly (rnd : Byte) (x : Reg) (nn : Byte) :
    ChangesOnly [.v, .pc, .draws] s (rndInto rnd x nn s) :=
  ((setV_changesOnly _).trans (setPc_changesOnly _)).trans countDraw_changesOnly

/-- Settles O33: with a given input byte and with the free one the next state is `rndInto` of that byte. -/
theorem rndMasksInputByte : Obligations.RndMasksInputByte := fun x nn s =>
  ⟨fun rnd => ⟨rndInto rnd x nn s, rfl, rndInto_reg_self rnd x nn, fun _ => rndInto_reg_ne rnd nn, rfl,
      rndInto_changesOnly rnd x nn⟩,
    Config.freeRnd s.draws, _, rfl, rndInto_reg_self _ x nn, fun _ => rndInto_reg_ne _ nn, rfl, rfl,
      rndInto_changesOnly _ x nn⟩

/-! ## A result, then the flag (R123 to R127, R129, R132) -/

theorem putWithFlag_reg_dest {x : Reg} (hx : x ≠ VF) (a b : Byte) : (s.putWithFlag x a b).reg x = a := by
  rw [State.putWithFlag_reg, if_neg hx, if_pos rfl]

theorem putWithFlag_reg_VF (x : Reg) (a b : Byte) : (s.putWithFlag x a b).reg VF = b := by
  rw [State.putWithFlag_reg, if_pos rfl]

theorem putWithFlag_frame (x : Reg) (a b : Byte) :
    (∀ r, r ≠ x → r ≠ VF → (s.putWithFlag x a b).reg r = s.reg r) ∧ (s.putWithFlag x a b).pc = s.pc + 2 ∧
      ChangesOnly [.v, .pc] s (s.putWithFlag x a b) := by
  refine ⟨fun r hx hf => ?_, rfl, (setV_changesOnly _).trans (setPc_changesOnly _)⟩
  rw [State.putWithFlag_reg, if_neg hf, if_neg hx]

theorem exec_logic {i : Instr} {x y : Reg} {f : Bool → Bool → Bool}
    (h : (i = .orReg x y ∧ f = or) ∨ (i = .andReg x y ∧ f = and) ∨ (i = .xorReg x y ∧ f = xor)) :
    ∃ a : Byte, exec i s = .next (s.putWithFlag x a 0) ∧
      ∀ k, a.getLsbD k = f ((s.reg x).getLsbD k) ((s.reg y).getLsbD k) := by
  obtain ⟨rfl, rfl⟩ | ⟨rfl, rfl⟩ | ⟨rfl, rfl⟩ := h
  · exact ⟨_, rfl, fun _ => BitVec.getLsbD_or⟩
  · exact ⟨_, rfl, fun _ => BitVec.getLsbD_and⟩
  · exact ⟨_, rfl, fun _ => BitVec.getLsbD_xor⟩

/-- Settles O29: the combined byte goes into VX, then 0 into VF. -/
theorem logicForcesFlagToZero : Obligations.LogicForcesFlagToZero := by
  intro i x y f s h
  obtain ⟨a, hexec, hbits⟩ := exec_logic (s := s) h
  refine ⟨_, hexec, fun hx k _ => ?_, putWithFlag_reg_VF x a 0, putWithFlag_frame x a 0⟩
  rw [putWithFlag_reg_dest hx, hbits]

theorem toNat_flagByte (b : Bool) : (flagByte b).toNat = if b then 1 else 0 := by
  cases b <;> rfl

theorem toNat_carryFlag (a b : Byte) : (carryFlag a b).toNat = if 255 < a.toNat + b.toNat then 1 else 0 := by
  simp [carryFlag, toNat_flagByte]

theorem toNat_notBorrowFlag (a b : Byte) : (notBorrowFlag a b).toNat = if a.toNat < b.toNat then 0 else 1 := by
  rw [notBorrowFlag, toNat_flagByte]
  by_cases hborrow : a.toNat < b.toNat <;> simp [hborrow]

/-- Settles O30: the sum goes into VX, then the carry into VF. -/
theorem addSetsCarry : Obligations.AddSetsCarry := by
  refine fun x y s => ⟨_, rfl, fun hx => ?_, ?_, putWithFlag_frame x _ _⟩
  · rw [putWithFlag_reg_dest hx, BitVec.toNat_add]
  · rw [putWithFlag_reg_VF, toNat_carryFlag]

theorem exec_difference {i : Instr} {x y p q : Reg}
    (h : (i = .subReg x y ∧ p = x ∧ q = y) ∨ (i = .subn x y ∧ p = y ∧ q = x)) :
    exec i s = .next (s.putWithFlag x (s.reg p - s.reg q) (notBorrowFlag (s.reg p) (s.reg q))) := by
  obtain ⟨rfl, rfl, rfl⟩ | ⟨rfl, rfl, rfl⟩ := h <;> rfl

/-- The difference with a borrow of 256, which the reduction modulo 256 takes away again. -/
theorem toNat_sub_byte (a b : Byte) : (a - b).toNat = (a.toNat + 256 - b.toNat) % 256 := by
  rw [BitVec.toNat_sub]
  omega

/-- Settles O31: 8XY7 is 8XY5 with the operands exchanged; the difference goes into VX, then not-borrow into VF. -/
theorem subtractionsSetNotBorrow : Obligations.SubtractionsSetNotBorrow := by
  refine fun i x y p q s h => ⟨_, exec_difference h, fun hx => ?_, ?_, putWithFlag_frame x _ _⟩
  · rw [putWithFlag_reg_dest hx, toNat_sub_byte]
  · rw [putWithFlag_reg_VF, toNat_notBorrowFlag]

/-! ## The shifts (R128, R130, R132) -/

section
variable (x y : Reg) (flag shift : Byte → Byte)

/-- VX is written last, so it is the flag itself that is shifted where VX is VF. -/
theorem shiftFrom_reg_dest :
    (s.shiftFrom x y flag shift).reg x = if x = VF then shift (flag (s.reg y)) else shift (s.reg y) := by
  by_cases hx : x = VF
  · simp [State.shiftFrom, hx]
  · simp [State.shiftFrom, State.setReg_reg_ne, hx]

theorem shiftFrom_reg_VF {x : Reg} (hx : x ≠ VF) : (s.shiftFrom x y flag shift).reg VF = flag (s.reg y) := by
  simp [State.shiftFrom, State.setReg_reg_ne _ _ hx.symm]

theorem shiftFrom_advance_frame :
    (∀ r, r ≠ x → r ≠ VF → (s.shiftFrom x y flag shift).advance.reg r = s.reg r) ∧
      (s.shiftFrom x y flag shift).advance.pc = s.pc + 2 ∧
      ChangesOnly [.v, .pc] s (s.shiftFrom x y flag shift).advance := by
  refine ⟨fun r hx hf => ?_, rfl, (setV_changesOnly _).trans (setPc_changesOnly _)⟩
  simp [State.shiftFrom, State.setReg_reg_ne, hx, hf]

end

theorem toNat_lowBitFlag (b : Byte) : (lowBitFlag b).toNat = b.toNat % 2 := by
  rw [lowBitFlag, BitVec.toNat_and]
  exact Nat.and_one_is_mod _

theorem toNat_ushiftRight_one (b : Byte) : (b >>> 1).toNat = b.toNat / 2 := by
  rw [BitVec.toNat_ushiftRight, Nat.shiftRight_one]

theorem toNat_highBitFlag (b : Byte) : (highBitFlag b).toNat = b.toNat / 128 := by
  have hlow : (highBitFlag b).toNat = (b >>> 7).toNat % 2 := toNat_lowBitFlag (b >>> 7)
  rw [hlow, BitVec.toNat_ushiftRight, Nat.shiftRight_eq_div_pow]
  omega

theorem toNat_shiftLeft_one (b : Byte) : (b <<< 1).toNat = 2 * b.toNat % 256 := by
  rw [BitVec.toNat_shiftLeft, Nat.shiftLeft_eq, Nat.mul_comm]

/-- Settles O32: VY goes into VX, its outgoing bit into VF, and VX is shifted; with X = 15 that bit is what is shifted. -/
theorem shiftsTakeVy : Obligations.ShiftsTakeVy := by
  refine fun x y s => ⟨⟨_, rfl, fun hx => ⟨?_, ?_⟩, ?_, shiftFrom_advance_frame x y _ _⟩,
    ⟨_, rfl, fun hx => ⟨?_, ?_⟩, ?_, shiftFrom_advance_frame x y _ _⟩⟩
  · rw [State.advance_reg, shiftFrom_reg_dest, if_neg hx, toNat_ushiftRight_one]
  · rw [State.advance_reg, shiftFrom_reg_VF _ _ _ hx, toNat_lowBitFlag]
  · rintro rfl
    rw [State.advance_reg, shiftFrom_reg_dest, if_pos rfl, ← BitVec.toNat_inj, toNat_ushiftRight_one, toNat_lowBitFlag]
    exact Nat.div_eq_of_lt (Nat.mod_lt _ (by decide))
  · rw [State.advance_reg, shiftFrom_reg_dest, if_neg hx, toNat_shiftLeft_one]
  · rw [State.advance_reg, shiftFrom_reg_VF _ _ _ hx, toNat_highBitFlag]
  · rintro rfl
    rw [State.advance_reg, shiftFrom_reg_dest, if_pos rfl, toNat_shiftLeft_one, toNat_highBitFlag]
    split <;> omega

end Sys2Proof.Machine

/-! SUPPORT. Further obligations of spec/42_index_memory.md: the block load (R145), its round trip with the block store
(R144), and the writes of I from operands (R140 to R142). -/

namespace Sys2Proof.Machine

variable {s : State}

/-! ## The block load (R145) -/

/-- FX65 on a range inside memory (R145). -/
theorem exec_loadRegs_inRange {x : Reg} (h : s.InRange (x.val + 1)) :
    exec (.loadRegs x) s = .next ((s.loadRegsUpTo x).bumpI x).advance := withRange_inRange h

/-- Settles O38: the registers up to VX are the block at I, and moving I and PC touches no register. -/
theorem blockLoadReadsRegisters : Obligations.BlockLoadReadsRegisters := by
  intro x s hroom
  have hrange : s.InRange (x.val + 1) := .inr (show s.i.toNat + (x.val + 1) ≤ 4096 by omega)
  refine ⟨_, exec_loadRegs_inRange hrange, fun k hk => ?_, fun k hk => ?_, ?_, ?_, ?_⟩
  · rw [State.advance_reg, State.bumpI_reg, State.loadRegsUpTo_reg, if_pos hk]
  · rw [State.advance_reg, State.bumpI_reg, State.loadRegsUpTo_reg, if_neg hk.not_ge]
  · rw [State.advance_i, toNat_bumpI (by rwa [State.loadRegsUpTo_i]), State.loadRegsUpTo_i]
  · rw [State.advance_pc, State.bumpI_pc, State.loadRegsUpTo_pc]
  · exact ((setV_changesOnly _).trans (setI_changesOnly _)).trans (setPc_changesOnly _)

/-- Settles O39: each register loaded is the byte the store wrote for it, and both instructions move the same I by the
same amount. -/
theorem blockStoreThenLoadRestores : Obligations.BlockStoreThenLoadRestores := by
  intro x s t u hwf hroom hstore hmem hi
  obtain ⟨t', hstore', hstored, -, hti, -, -⟩ := blockStoreWritesRegisters x s hwf hroom
  obtain rfl : t' = t := Host.Outcome.next.inj (hstore'.symm.trans hstore)
  obtain ⟨w, hload, hloaded, -, hwi, -, -⟩ := blockLoadReadsRegisters x u (hi ▸ hroom)
  refine ⟨w, hload, fun k hk => ?_, BitVec.eq_of_toNat_eq ?_⟩
  · rw [hloaded k hk, hmem, hi, hstored k hk]
  · rw [hwi, hi, hti]

/-! ## I written from an operand (R140 to R142) -/

theorem setI_advance_frame (a : Word) :
    (s.setI a).advance.pc = s.pc + 2 ∧ ChangesOnly [.i, .pc] s (s.setI a).advance :=
  ⟨rfl, (setI_changesOnly a).trans (setPc_changesOnly _)⟩

theorem toNat_zextByte (b : Byte) : (zextByte b).toNat = b.toNat := BitVec.toNat_setWidth_of_le (by decide)

/-- A glyph's address is at most 15 · 5, so the product does not wrap (R142). -/
theorem toNat_glyphAddr (b : Byte) : (glyphAddr b).toNat = b.toNat % 16 * 5 := by
  have hnibble : (b &&& 0x0F#8).toNat = b.toNat % 16 := Nat.and_two_pow_sub_one_eq_mod _ 4
  rw [glyphAddr, BitVec.toNat_mul, toNat_zextByte, hnibble]
  exact Nat.mod_eq_of_lt (show b.toNat % 16 * 5 < 65536 by omega)

/-- Settles O34: each of the two is one write of I and an advance. -/
theorem indexLoads : Obligations.IndexLoads := fun x nnn s =>
  ⟨⟨_, rfl, toNat_zextAddr nnn, setI_advance_frame _⟩, ⟨_, rfl, toNat_glyphAddr (s.reg x), setI_advance_frame _⟩⟩

/-- Settles O35: addition of words is modulo 65536, and the byte added is VX in the naturals. -/
theorem addIndexWrapsAtSixteenBits : Obligations.AddIndexWrapsAtSixteenBits := by
  refine fun x s => ⟨_, rfl, ?_, setI_advance_frame _⟩
  rw [State.advance_i, State.setI_i, BitVec.toNat_add, toNat_zextByte]

end Sys2Proof.Machine

/-! SUPPORT. The obligations of spec/43_display.md: 00E0 (R150), the picture DXYN draws (R151, R152), and the
acknowledgement of a redraw (R153). -/

namespace Sys2Proof.Machine

variable {s t : State} {x y : Reg} {n : BitVec 4}

/-! ## Clearing and acknowledging (R150, R153) -/

/-- Settles O42: the display is set to the clear one, and PC advanced. -/
theorem clsClearsAllCells : Obligations.ClsClearsAllCells := fun _ =>
  ⟨_, rfl, Framebuffer.lit_clear, rfl, rfl, (setDisplay_changesOnly _).trans (setPc_changesOnly _)⟩

/-- Settles O45: the acknowledgement is one update of DRAW. -/
theorem ackRedrawClearsFlag : Obligations.AckRedrawClearsFlag := by
  refine fun s => ⟨rfl, fun c hc => ?_⟩
  cases c with
  | draw => exact absurd (List.mem_singleton_self _) hc
  | v | mem | fb => exact fun _ => rfl
  | _ => rfl

/-! ## The picture DXYN draws (R151, R152) -/

/-- The framebuffer DXYN leaves, and whether it met a pixel that was 1 (R151). -/
def State.drawn (s : State) (x y : Reg) (n : BitVec 4) : Framebuffer × Bool :=
  drawSprite s.fb (s.reg x) (s.reg y) (s.readBytes s.i.toNat n.toNat)

/-- DXYN on a range inside memory (R151). -/
theorem exec_drw_inRange (h : s.InRange n.toNat) :
    exec (.drw x y n) s =
      .next ((s.setDisplay (s.drawn x y n).1).setReg VF (collisionFlag (s.drawn x y n).2)).advance :=
  withRange_inRange h

/-- Where a set bit falls, in the mode its origin chooses, is what `Covered` says of the pixel. -/
theorem drawTarget_clipping_eq_some_iff (ox oy : Byte) (c r : Nat) (p : Pixel) :
    drawTarget (clipping ox oy) (ox.toNat + c) (oy.toNat + r) = some p ↔
      if ox.toNat < 64 ∧ oy.toNat < 32 then p.col.val = ox.toNat + c ∧ p.row.val = oy.toNat + r
      else p.col.val = (ox.toNat + c) % 64 ∧ p.row.val = (oy.toNat + r) % 32 := by
  obtain ⟨col, row⟩ := p
  by_cases hclip : ox.toNat < 64 ∧ oy.toNat < 32
  · by_cases hon : ox.toNat + c < 64 ∧ oy.toNat + r < 32
    · simp [drawTarget, clipping, hclip, hon, Fin.ext_iff, eq_comm]
    · simp only [drawTarget, clipping, hclip, hon, decide_true, Bool.and_self, if_true, dite_false, and_self,
        reduceCtorEq, false_iff]
      omega
  · have hwrap : clipping ox oy = false := by simpa [clipping] using hclip
    simp [drawTarget, hwrap, hclip, Fin.ext_iff, eq_comm]

/-- The rows DXYN reads are the sprite of `Covered`: some row and column reach a pixel exactly when it is covered. -/
theorem reached_iff_covered (p : Pixel) :
    (∃ r c, ∃ h : r < (s.readBytes s.i.toNat n.toNat).length, c < 8 ∧
        spriteBit (s.readBytes s.i.toNat n.toNat)[r] c = true ∧
        drawTarget (clipping (s.reg x) (s.reg y)) ((s.reg x).toNat + c) ((s.reg y).toNat + r) = some p) ↔
      Covered s x y n p := by
  simp only [State.readBytes, Memory.getElem_readList, Memory.length_readList, drawTarget_clipping_eq_some_iff,
    exists_prop]
  rfl

/-- The draw loop against the picture: it flips the covered pixels and reports a collision with one that was 1. -/
theorem drawn_spec (s : State) (x y : Reg) (n : BitVec 4) :
    (∀ p, (s.drawn x y n).1.lit p ≠ s.fb.lit p ↔ Covered s x y n p) ∧
      ((s.drawn x y n).2 = true ↔ ∃ p, Covered s x y n p ∧ s.fb.lit p = true) := by
  have hlen : (s.readBytes s.i.toNat n.toNat).length ≤ 32 := by
    rw [State.readBytes, Memory.length_readList]
    omega
  obtain ⟨hflips, hmeets⟩ := drawRows_spec (clipping (s.reg x) (s.reg y)) (s.reg x).toNat
    (s.readBytes s.i.toNat n.toNat) (s.reg y).toNat (s.fb, false) hlen
  simp only [reached_iff_covered, Bool.false_eq_true, false_or] at hflips hmeets
  exact ⟨hflips, hmeets⟩

/-- Settles O43: the draw loop makes the picture, and VF is written last, from the collision it reports. -/
theorem drwIsXorOfSpritePicture : Obligations.DrwIsXorOfSpritePicture := by
  intro x y n s hroom
  have hrange : s.InRange n.toNat := by
    simp only [State.InRange, Config.memSize]
    omega
  obtain ⟨hflips, hmeets⟩ := drawn_spec s x y n
  refine ⟨_, exec_drw_inRange hrange, hflips, fun hhit => ?_, fun hdark => ?_, fun r hr => ?_, rfl, rfl, ?_⟩
  · rw [State.advance_reg, State.setReg_reg_self, hmeets.mpr hhit]
    rfl
  · have hmiss : (s.drawn x y n).2 = false := by
      rw [Bool.eq_false_iff, ne_eq, hmeets]
      rintro ⟨p, hp, hlit⟩
      simp [hdark p hp] at hlit
    rw [State.advance_reg, State.setReg_reg_self, hmiss]
    rfl
  · rw [State.advance_reg, State.setReg_reg_ne _ _ hr, State.setDisplay_reg]
  · exact (((setDisplay_changesOnly _).trans (setV_changesOnly _)).trans (setPc_changesOnly _)).mono (by simp)

/-! ## Drawing twice (R151) -/

/-- The picture depends on the two coordinate registers, I and memory only. -/
theorem covered_congr (hx : t.reg x = s.reg x) (hy : t.reg y = s.reg y) (hi : t.i = s.i)
    (hmem : ∀ a, t.readByte a = s.readByte a) (p : Pixel) : Covered t x y n p ↔ Covered s x y n p := by
  simp only [Covered, hx, hy, hi, hmem]

/-- A cell flipped in both of two draws, or in neither, is back at its value. -/
theorem lit_eq_of_flips_iff {a b c : Bool} (h : c ≠ b ↔ b ≠ a) : c = a := by
  revert a b c
  decide

/-- Settles O44: the second draw makes the same picture, so each pixel is flipped in both draws or in neither, and a
pixel flipped from 0 is 1 when the second draw meets it. -/
theorem drawingTwiceRestores : Obligations.DrawingTwiceRestores := by
  intro x y n s t u hroom hfirst hsecond hVF
  obtain ⟨t', hfirst', hflips, -, -, hothers, -, -, hframe⟩ := drwIsXorOfSpritePicture x y n s hroom
  obtain rfl : t' = t := Host.Outcome.next.inj (hfirst'.symm.trans hfirst)
  have hi : t'.i = s.i := hframe .i (by decide)
  obtain ⟨u', hsecond', hflips', hhit, -, -, -, -, -⟩ := drwIsXorOfSpritePicture x y n t' (hi ▸ hroom)
  obtain rfl : u' = u := Host.Outcome.next.inj (hsecond'.symm.trans hsecond)
  have hcoord (r : Reg) (hr : r = VF → t'.reg VF = s.reg VF) : t'.reg r = s.reg r := by
    by_cases hrVF : r = VF
    · rw [hrVF, hr hrVF]
    · exact hothers r hrVF
  have hsame (p : Pixel) : Covered t' x y n p ↔ Covered s x y n p :=
    covered_congr (hcoord x fun h => hVF (.inl h)) (hcoord y fun h => hVF (.inr h)) hi (hframe .mem (by decide)) p
  refine ⟨Framebuffer.ext_of_lit fun p => ?_, fun ⟨p, hp⟩ hdark => hhit ⟨p, (hsame p).mpr hp, ?_⟩⟩
  · exact lit_eq_of_flips_iff ((hflips' p).trans ((hsame p).trans (hflips p).symm))
  · have hflipped := (hflips p).mpr hp
    rwa [hdark p hp, Bool.ne_false_iff] at hflipped

end Sys2Proof.Machine

/-! SUPPORT. The obligations of spec/44_keypad.md: the level tests (R161, R162, R165), the key wait (R163, R164) and the
capture of a sample (R160). -/

namespace Sys2Proof.Machine

variable {s : State}

/-! ## The level tests (R161, R162, R165) -/

theorem withKey_of_le {x : Reg} {go : Nat → Result} (h : (s.reg x).toNat ≤ 15) :
    withKey s x go = go (s.reg x).toNat := if_neg h.not_gt

theorem withKey_of_gt {x : Reg} {go : Nat → Result} (h : 15 < (s.reg x).toNat) :
    withKey s x go = raise (.keyIndexOutOfBounds (s.reg x)) s := if_pos h

theorem exec_skp (x : Reg) : exec (.skp x) s = withKey s x fun k => .next (s.skipIf (s.keyDown k)) := rfl

theorem exec_sknp (x : Reg) : exec (.sknp x) s = withKey s x fun k => .next (s.skipIf !s.keyDown k) := rfl

theorem skipIf_not_pc (taken : Bool) : (s.skipIf !taken).pc = if taken then s.pc + 2 else s.pc + 4 := by
  cases taken <;> rfl

/-- Settles O46: past the check of the key index both are skips, on the level and on its negation. -/
theorem keySkipsTestLevel : Obligations.KeySkipsTestLevel := by
  refine fun x s => ⟨fun hkey => ?_, fun hkey i hi => ?_⟩
  · rw [exec_skp, exec_sknp, withKey_of_le hkey, withKey_of_le hkey]
    exact ⟨⟨_, rfl, rfl, setPc_changesOnly _⟩, ⟨_, rfl, skipIf_not_pc _, setPc_changesOnly _⟩⟩
  · have hraise : exec i s = raise (.keyIndexOutOfBounds (s.reg x)) s := by
      obtain rfl | rfl := hi
      · rw [exec_skp, withKey_of_gt hkey]
      · rw [exec_sknp, withKey_of_gt hkey]
    exact ⟨_, hraise, rfl, withFault_changesOnly _⟩

/-! ## The key wait (R163, R164) -/

/-- FX0A with a release edge. -/
theorem exec_ldVxK_take {k : Nat} (x : Reg) (h : s.releaseEdge = some k) :
    exec (.ldVxK x) s = .next (s.setReg x (BitVec.ofNat 8 k)).advance := by
  rw [exec, execLdVxK, h]

/-- FX0A without one. -/
theorem exec_ldVxK_wait (x : Reg) (h : s.releaseEdge = none) : exec (.ldVxK x) s = .next s := by
  rw [exec, execLdVxK, h]

/-- Settles O47: the scan finds the lowest edge, if there is one, and a key number fits into a byte. -/
theorem keyWaitTakesLowestReleasedKey : Obligations.KeyWaitTakesLowestReleasedKey := by
  refine fun x s => ⟨fun k hk hup hdown hlowest => ?_, fun hnone => ?_⟩
  · have hedge : s.releaseEdge = some k := (State.releaseEdge_eq_some k).mpr ⟨hk, hup, hdown, hlowest⟩
    refine ⟨_, exec_ldVxK_take x hedge, ?_, setReg_advance_frame x _⟩
    rw [State.advance_reg, State.setReg_reg_self, BitVec.toNat_ofNat]
    omega
  · exact exec_ldVxK_wait x (State.releaseEdge_eq_none.mpr hnone)

/-- An armed wait without an edge is a fixed point of the step (R164). -/
theorem step_of_armed {x : Reg} (harmed : s.Armed x) (h : s.releaseEdge = none) : step s = .next s := by
  obtain ⟨⟨hnone, hfetch⟩, hdecode⟩ := harmed
  rw [step, fetchExecute_running hnone hfetch, hdecode, exec_ldVxK_wait x h]

/-- Settles O48: a run never leaves a fixed point of the step. -/
theorem armedKeyWaitStays : Obligations.ArmedKeyWaitStays := fun _ _ n harmed hnone =>
  run_of_step_fixed core (step_of_armed harmed (State.releaseEdge_eq_none.mpr hnone)) n

/-! ## Capture (R160, R203) -/

theorem capture_changesOnly (keyIn : BitVec 16) : ChangesOnly [.keys, .prev] s (s.capture keyIn) := by
  intro c hc
  cases c <;> simp_all [Kept]

/-- Equal snapshots show no release edge: a key would be up and down in the same one. -/
theorem releaseEdge_of_keys_eq_prev (h : s.keys = s.prev) : s.releaseEdge = none := by
  rw [State.releaseEdge_eq_none]
  rintro k - ⟨hup, hdown⟩
  rw [State.keyDown, h, ← State.wasDown, hdown] at hup
  contradiction

/-- Settles O49: the second capture of a sample makes PREV equal to KEYS. -/
theorem captureShiftsSnapshots : Obligations.CaptureShiftsSnapshots := fun _ keyIn =>
  ⟨rfl, rfl, capture_changesOnly keyIn, fun x => exec_ldVxK_wait x (releaseEdge_of_keys_eq_prev rfl)⟩

end Sys2Proof.Machine

/-! SUPPORT. The obligations of spec/45_timers.md: the moves between a register and a timer (R170 to R172), and the tick
(R173) with how long the beep lasts (R174). -/

namespace Sys2Proof.Machine

variable {s : State}

/-! ## The tick (R173, R174) -/

theorem toNat_countDown (t : Byte) : (countDown t).toNat = t.toNat - 1 := by
  unfold countDown
  split
  case isTrue hzero => rw [hzero]; rfl
  case isFalse hne =>
    have hpos : 1 ≤ t := by bv_omega
    exact BitVec.toNat_sub_of_le hpos

/-- The beep level is ST before the decrement (R174). -/
theorem tick_beep_eq_decide_lt (s : State) : s.tick.beep = decide (0 < s.st.toNat) := by
  rw [State.tick_beep, decide_eq_decide]
  bv_omega

theorem tick_changesOnly : ChangesOnly [.dt, .st, .beep] s s.tick := by
  intro c hc
  cases c <;> simp_all [Kept]

/-- `k` ticks take `k` from ST, down to 0. -/
theorem toNat_iterate_tick_st (s : State) (k : Nat) : (State.tick^[k] s).st.toNat = s.st.toNat - k := by
  induction k with
  | zero => rfl
  | succ k ih => rw [Function.iterate_succ_apply', State.tick_st, toNat_countDown, ih, Nat.sub_sub]

/-- Settles O52: tick k + 1 beeps when the k ticks before it left ST above 0. -/
theorem beepLastsAsManyTicksAsSoundTimer : Obligations.BeepLastsAsManyTicksAsSoundTimer := by
  intro s k
  rw [Function.iterate_succ_apply', tick_beep_eq_decide_lt, toNat_iterate_tick_st, decide_eq_decide]
  exact Nat.sub_pos_iff_lt

/-- Settles O51: both timers count down alike. -/
theorem tickCountsDown : Obligations.TickCountsDown := fun s =>
  ⟨by rw [tick_beep_eq_decide_lt, decide_eq_true_iff], toNat_countDown s.dt, toNat_countDown s.st, tick_changesOnly⟩

/-! ## The timer moves (R170 to R172) -/

/-- Settles O50: FX07 writes one register, FX15 and FX18 one timer, and each advances. -/
theorem timerMoves : Obligations.TimerMoves := fun x s =>
  ⟨⟨_, rfl, s.setReg_reg_self x s.dt, setReg_advance_frame x s.dt⟩,
    ⟨_, rfl, rfl, rfl, (setDt_changesOnly _).trans (setPc_changesOnly _)⟩,
    ⟨_, rfl, rfl, rfl, (setSt_changesOnly _).trans (setPc_changesOnly _)⟩⟩

end Sys2Proof.Machine

/-! SUPPORT. The load of spec/70_reset_and_hazards.md (R201). -/

namespace Sys2Proof.Machine

variable {s : State} {bytes : List Byte}

/-- A program that fits is stored from 512 upwards (R201). -/
theorem load_of_length_le (h : bytes.length ≤ Config.romMax) :
    s.load bytes = (true, s.storeBytes Config.progBase bytes) := if_neg h.not_gt

/-- A longer one is not stored (R201). -/
theorem load_of_lt_length (h : Config.romMax < bytes.length) : s.load bytes = (false, s) := if_pos h

/-- Settles O54: an accepted program is one stored block, and 3584 bytes from 512 end where memory ends. -/
theorem loadCopiesOrRejects : Obligations.LoadCopiesOrRejects := by
  refine fun s bytes hwf => ⟨fun hlen => ?_, load_of_lt_length⟩
  have hfit : Config.progBase + bytes.length ≤ Config.memSize := Nat.add_le_add_left hlen Config.progBase
  rw [load_of_length_le hlen]
  exact ⟨rfl, fun _ => storeBytes_readByte_inside hwf hfit, fun _ => storeBytes_readByte_outside hwf hfit,
    storeBytes_changesOnly _ _⟩

end Sys2Proof.Machine

/-! SUPPORT. What a step answers (spec/40_control_flow.md section 1, spec/60_exceptions.md R182): the model's placing of a
word for the next fetch (log 19), and that every step and every instruction answers a next state (log 4). -/

namespace Sys2Proof.Machine

variable {s : State}

/-! ## The placed word (R52, R100; log 19) -/

/-- Both bytes of a placed word lie inside memory. -/
theorem placeAddr_add_one_lt : s.placeAddr + 1 < Config.memSize := by
  unfold State.placeAddr
  split
  · exact canFetch_iff.mp ‹_›
  · decide

theorem toNat_placeWord_pc (w : Word) : (s.placeWord w).pc.toNat = s.placeAddr := by
  have hlt : s.placeAddr + 1 < 4096 := placeAddr_add_one_lt
  rw [State.placeWord_pc, BitVec.toNat_ofNat, Nat.mod_eq_of_lt (by omega)]

theorem placeWord_canFetch (w : Word) : (s.placeWord w).canFetch = true := by
  rw [canFetch_iff, toNat_placeWord_pc]
  exact placeAddr_add_one_lt

/-- The placed word is the one fetched. -/
theorem placeWord_fetchWord (h : s.mem.wf s.font = true) (w : Word) : (s.placeWord w).fetchWord = w := by
  rw [State.fetchWord, toNat_placeWord_pc, State.placeWord_readByte h, State.placeWord_readByte h]
  simp

/-- All 16 bits of a word are placed. -/
theorem withFetchWord_toNat (w : Word) : s.withFetchWord 16 w.toNat = s.placeWord w := by
  rw [State.withFetchWord, Nat.mod_eq_of_lt w.isLt, BitVec.ofNat_toNat, BitVec.setWidth_eq]

/-- Settles O7: a placed word leaves no fault recorded and a fetchable PC, and is the word fetched there. -/
theorem placedWordIsRunNext : Obligations.PlacedWordIsRunNext := by
  intro s w hwf
  rw [withFetchWord_toNat, step, fetchExecute_running (s.placeWord_fault w) (placeWord_canFetch w),
    placeWord_fetchWord hwf]

/-! ## Every answer is a next state (log 4) -/

/-- `r` is neither of the host's outcomes `fault` and `refused`. -/
def AnswersNext (r : Result) : Prop := ∃ t, r = .next t

theorem answersNext_next : AnswersNext (.next s) := ⟨s, rfl⟩

/-- A raised fault is a next state (R182). -/
theorem answersNext_raise (f : Fault) : AnswersNext (raise f s) := answersNext_next

theorem answersNext_withRange {len : Nat} {go : Result} (hgo : AnswersNext go) : AnswersNext (withRange s len go) := by
  by_cases hr : s.InRange len
  · rwa [withRange_inRange hr]
  · rw [withRange_outOfRange hr]
    exact answersNext_raise _

theorem answersNext_withPush {a : Word} {go : State → Result} (hgo : ∀ t, AnswersNext (go t)) :
    AnswersNext (withPush s a go) := by
  obtain ⟨_, e⟩ | ⟨-, e⟩ := withPush_cases a go <;> rw [e]
  · exact hgo _
  · exact answersNext_raise _

theorem answersNext_withPop {go : State → Word → Result} (hgo : ∀ t a, AnswersNext (go t a)) :
    AnswersNext (withPop s go) := by
  obtain ⟨_, e⟩ | ⟨-, e⟩ := withPop_cases go <;> rw [e]
  · exact hgo _ _
  · exact answersNext_raise _

theorem answersNext_withKey {x : Reg} {go : Nat → Result} (hgo : ∀ k, AnswersNext (go k)) :
    AnswersNext (withKey s x go) := by
  obtain ⟨-, e⟩ | ⟨-, e⟩ := withKey_cases x go <;> rw [e]
  · exact hgo _
  · exact answersNext_raise _

/-- FX0A answers a next state whether it takes a key or waits (R163). -/
theorem answersNext_ldVxK (x : Reg) : AnswersNext (exec (.ldVxK x) s) := by
  cases h : s.releaseEdge with
  | none => exact ⟨_, exec_ldVxK_wait x h⟩
  | some k => exact ⟨_, exec_ldVxK_take x h⟩

/-- Every meaning is a next state, or a check around one. -/
theorem exec_answersNext (i : Instr) (s : State) : AnswersNext (exec i s) := by
  cases i with
  | ret =>
    rw [exec_ret]
    exact answersNext_withPop fun _ _ => answersNext_next
  | call =>
    rw [exec_call]
    exact answersNext_withPush fun _ => answersNext_next
  | skp | sknp => exact answersNext_withKey fun _ => answersNext_next
  | drw | ldB | storeRegs | loadRegs => exact answersNext_withRange answersNext_next
  | ldVxK x => exact answersNext_ldVxK x
  | _ => exact answersNext_next

theorem answersNext_fetchExecute {run : Instr → State → Result} (hrun : ∀ i, AnswersNext (run i s)) :
    AnswersNext (fetchExecute run s) := by
  by_cases hf : s.fault = none
  · cases hp : s.canFetch
    · rw [fetchExecute_pcOut hf hp]
      exact answersNext_raise _
    · rw [fetchExecute_running hf hp]
      exact hrun _
  · rw [fetchExecute_faulted hf]
    exact answersNext_next

/-- Settles O10: a step stays, raises PcOutOfBounds, or runs an instruction. -/
theorem everyStepAnswersNext : Obligations.EveryStepAnswersNext :=
  ⟨fun s => answersNext_fetchExecute fun i => exec_answersNext i s, exec_answersNext⟩

end Sys2Proof.Machine
